-- ==== Sys2Proof/Word.lean ====
section
/-! DEFINITION. The word types of the machine: what the spec treats as bits
(00_scope.md section 5; 10_state.md R20, R24, R25; 30_encoding.md R82). -/

namespace Sys2Proof

/-- A byte: a memory cell or a general register (10_state.md R20, R33). -/
abbrev Byte := BitVec 8

/-- A 16-bit word: an instruction word, `I`, `PC`, `SP` (10_state.md R24, R25, R27). -/
abbrev Word := BitVec 16

/-- A 12-bit immediate address, the field `nnn` (30_encoding.md R82). -/
abbrev Addr := BitVec 12

/-- A general register number, the fields `x` and `y` (30_encoding.md R82, R89: all sixteen
values are legal). -/
abbrev Reg := BitVec 4

/-- A sprite row count, the field `n` (30_encoding.md R82). -/
abbrev RowCount := BitVec 4

/-- The number of `VF`, the flag register (10_state.md R20, R22). -/
def vf : Reg := 15

end Sys2Proof
end

