-- ==== Sys2Proof/Syntax.lean ====
section
/-! DEFINITION. The instructions, one constructor per row of spec/opcode_table.json
(30_encoding.md R84), and their written form (30_encoding.md R83, R91, R93). -/

namespace Sys2Proof

/-- The 34 instructions of 30_encoding.md R84, with the fields their format names (R83).
Every field has exactly its width, so every term is an instruction of the machine. -/
inductive Instr where
  /-- `00E0` (R160). -/
  | clearScreen
  /-- `00EE` (R100). -/
  | ret
  /-- `1nnn` (R101). -/
  | jump (nnn : Addr)
  /-- `2nnn` (R103). -/
  | call (nnn : Addr)
  /-- `3xkk` (R104). -/
  | skipValueEq (x : Reg) (kk : Byte)
  /-- `4xkk` (R105). -/
  | skipValueNe (x : Reg) (kk : Byte)
  /-- `5xy0` (R106). -/
  | skipRegEq (x y : Reg)
  /-- `6xkk` (R120). -/
  | setByValue (x : Reg) (kk : Byte)
  /-- `7xkk` (R121). -/
  | addToRegister (x : Reg) (kk : Byte)
  /-- `8xy0` (R122). -/
  | setReg (x y : Reg)
  /-- `8xy1` (R123). -/
  | orReg (x y : Reg)
  /-- `8xy2` (R124). -/
  | andReg (x y : Reg)
  /-- `8xy3` (R125). -/
  | xorReg (x y : Reg)
  /-- `8xy4` (R126). -/
  | addReg (x y : Reg)
  /-- `8xy5` (R127). -/
  | subReg (x y : Reg)
  /-- `8xy6` (R128). -/
  | shiftRight (x y : Reg)
  /-- `8xy7` (R129). -/
  | subRegReverse (x y : Reg)
  /-- `8xyE` (R130). -/
  | shiftLeft (x y : Reg)
  /-- `9xy0` (R107). -/
  | skipRegNe (x y : Reg)
  /-- `Annn` (R140). -/
  | setIRegister (nnn : Addr)
  /-- `Bnnn` (R102). -/
  | jumpV0 (nnn : Addr)
  /-- `Cxkk` (R162). -/
  | setRandom (x : Reg) (kk : Byte)
  /-- `Dxyn` (R161). -/
  | drawSprite (x y : Reg) (n : RowCount)
  /-- `Ex9E` (R170). -/
  | skipKeyPressed (x : Reg)
  /-- `ExA1` (R171). -/
  | skipKeyNotPressed (x : Reg)
  /-- `Fx07` (R172). -/
  | storeDelayTimer (x : Reg)
  /-- `Fx0A` (R173). -/
  | waitAndStoreKey (x : Reg)
  /-- `Fx15` (R174). -/
  | setDelayTimer (x : Reg)
  /-- `Fx18` (R175). -/
  | setSoundTimer (x : Reg)
  /-- `Fx1E` (R141). -/
  | addToI (x : Reg)
  /-- `Fx29` (R142). -/
  | setIToChar (x : Reg)
  /-- `Fx33` (R143). -/
  | storeBCD (x : Reg)
  /-- `Fx55` (R144). -/
  | storeRegs (x : Reg)
  /-- `Fx65` (R145). -/
  | fillRegs (x : Reg)
  deriving DecidableEq, Repr

/-- The six formats of 30_encoding.md R83. -/
inductive Format where
  | fixed | nnn | xkk | xy | xyn | x
  deriving DecidableEq, Repr

/-- The 34 mnemonics of 30_encoding.md R84, in its order. -/
inductive Mnemonic where
  | clearScreen | ret | jump | call | skipValueEq | skipValueNe | skipRegEq | setByValue
  | addToRegister | setReg | orReg | andReg | xorReg | addReg | subReg | shiftRight
  | subRegReverse | shiftLeft | skipRegNe | setIRegister | jumpV0 | setRandom | drawSprite
  | skipKeyPressed | skipKeyNotPressed | storeDelayTimer | waitAndStoreKey | setDelayTimer
  | setSoundTimer | addToI | setIToChar | storeBCD | storeRegs | fillRegs
  deriving DecidableEq, Repr

/-- The format of each mnemonic: the column "format" of 30_encoding.md R84. -/
def Mnemonic.format : Mnemonic → Format
  | .clearScreen | .ret => .fixed
  | .jump | .call | .setIRegister | .jumpV0 => .nnn
  | .skipValueEq | .skipValueNe | .setByValue | .addToRegister | .setRandom => .xkk
  | .skipRegEq | .setReg | .orReg | .andReg | .xorReg | .addReg | .subReg | .shiftRight
  | .subRegReverse | .shiftLeft | .skipRegNe => .xy
  | .drawSprite => .xyn
  | .skipKeyPressed | .skipKeyNotPressed | .storeDelayTimer | .waitAndStoreKey
  | .setDelayTimer | .setSoundTimer | .addToI | .setIToChar | .storeBCD | .storeRegs
  | .fillRegs => .x

/-- The spelling of each mnemonic (30_encoding.md R84, R93). -/
def Mnemonic.text : Mnemonic → String
  | .clearScreen => "ClearScreen"
  | .ret => "Return"
  | .jump => "Jump"
  | .call => "Call"
  | .skipValueEq => "SkipValueEq"
  | .skipValueNe => "SkipValueNe"
  | .skipRegEq => "SkipRegEq"
  | .setByValue => "SetByValue"
  | .addToRegister => "AddToRegister"
  | .setReg => "SetReg"
  | .orReg => "Or"
  | .andReg => "And"
  | .xorReg => "Xor"
  | .addReg => "AddReg"
  | .subReg => "SubReg"
  | .shiftRight => "ShiftRight"
  | .subRegReverse => "SubRegReverse"
  | .shiftLeft => "ShiftLeft"
  | .skipRegNe => "SkipRegNe"
  | .setIRegister => "SetIRegister"
  | .jumpV0 => "JumpV0"
  | .setRandom => "SetRandom"
  | .drawSprite => "DrawSprite"
  | .skipKeyPressed => "SkipKeyPressed"
  | .skipKeyNotPressed => "SkipKeyNotPressed"
  | .storeDelayTimer => "StoreDelayTimer"
  | .waitAndStoreKey => "WaitAndStoreKey"
  | .setDelayTimer => "SetDelayTimer"
  | .setSoundTimer => "SetSoundTimer"
  | .addToI => "AddToI"
  | .setIToChar => "SetIToChar"
  | .storeBCD => "StoreBCD"
  | .storeRegs => "StoreRegs"
  | .fillRegs => "FillRegs"

/-- The mnemonic of an instruction. -/
def Instr.mnemonic : Instr → Mnemonic
  | .clearScreen => .clearScreen
  | .ret => .ret
  | .jump _ => .jump
  | .call _ => .call
  | .skipValueEq _ _ => .skipValueEq
  | .skipValueNe _ _ => .skipValueNe
  | .skipRegEq _ _ => .skipRegEq
  | .setByValue _ _ => .setByValue
  | .addToRegister _ _ => .addToRegister
  | .setReg _ _ => .setReg
  | .orReg _ _ => .orReg
  | .andReg _ _ => .andReg
  | .xorReg _ _ => .xorReg
  | .addReg _ _ => .addReg
  | .subReg _ _ => .subReg
  | .shiftRight _ _ => .shiftRight
  | .subRegReverse _ _ => .subRegReverse
  | .shiftLeft _ _ => .shiftLeft
  | .skipRegNe _ _ => .skipRegNe
  | .setIRegister _ => .setIRegister
  | .jumpV0 _ => .jumpV0
  | .setRandom _ _ => .setRandom
  | .drawSprite _ _ _ => .drawSprite
  | .skipKeyPressed _ => .skipKeyPressed
  | .skipKeyNotPressed _ => .skipKeyNotPressed
  | .storeDelayTimer _ => .storeDelayTimer
  | .waitAndStoreKey _ => .waitAndStoreKey
  | .setDelayTimer _ => .setDelayTimer
  | .setSoundTimer _ => .setSoundTimer
  | .addToI _ => .addToI
  | .setIToChar _ => .setIToChar
  | .storeBCD _ => .storeBCD
  | .storeRegs _ => .storeRegs
  | .fillRegs _ => .fillRegs

/-- A written operand: `V0`..`VF`, or a number (30_encoding.md R91). Numbers are unbounded
here; whether they fit is `Written.wellFormed`. -/
inductive Operand where
  | reg (n : Nat)
  | imm (n : Nat)
  deriving DecidableEq, Repr

/-- The written form of an instruction, `Mnemonic(operand, ...)` (30_encoding.md R91). -/
structure Written where
  mnemonic : Mnemonic
  operands : List Operand
  deriving DecidableEq, Repr

/-- The operands of an instruction, in the order register `x`, register `y`, immediate
(30_encoding.md R91). -/
def Instr.operands : Instr → List Operand
  | .clearScreen | .ret => []
  | .jump nnn | .call nnn | .setIRegister nnn | .jumpV0 nnn => [.imm nnn.toNat]
  | .skipValueEq x kk | .skipValueNe x kk | .setByValue x kk | .addToRegister x kk
  | .setRandom x kk => [.reg x.toNat, .imm kk.toNat]
  | .skipRegEq x y | .setReg x y | .orReg x y | .andReg x y | .xorReg x y | .addReg x y
  | .subReg x y | .shiftRight x y | .subRegReverse x y | .shiftLeft x y | .skipRegNe x y =>
    [.reg x.toNat, .reg y.toNat]
  | .drawSprite x y n => [.reg x.toNat, .reg y.toNat, .imm n.toNat]
  | .skipKeyPressed x | .skipKeyNotPressed x | .storeDelayTimer x | .waitAndStoreKey x
  | .setDelayTimer x | .setSoundTimer x | .addToI x | .setIToChar x | .storeBCD x
  | .storeRegs x | .fillRegs x => [.reg x.toNat]

/-- The written form of an instruction. -/
def Instr.written (i : Instr) : Written := ⟨i.mnemonic, i.operands⟩

end Sys2Proof
end

