-- ==== Sys2Proof/WellFormed.lean ====
section
/-! DEFINITION. Which written instructions are well-formed (30_encoding.md R91: an immediate
"must fit its field (12, 8 or 4 bits)", a register is one of `V0`..`VF`, the operands are those
of the format), and the instruction such a written form stands for. -/

namespace Sys2Proof

/-- The operands are those the format takes, each within its field (30_encoding.md R83, R91). -/
def Format.fits : Format → List Operand → Bool
  | .fixed, [] => true
  | .nnn, [.imm n] => decide (n < 4096)
  | .xkk, [.reg a, .imm k] => decide (a < 16) && decide (k < 256)
  | .xy, [.reg a, .reg b] => decide (a < 16) && decide (b < 16)
  | .xyn, [.reg a, .reg b, .imm n] => decide (a < 16) && decide (b < 16) && decide (n < 16)
  | .x, [.reg a] => decide (a < 16)
  | _, _ => false

/-- A written instruction the assembler accepts. -/
def Written.wellFormed (t : Written) : Bool := t.mnemonic.format.fits t.operands

/-- An instruction is well-formed when its written form is. `Instr` carries exact widths, so
every instruction is (`Sys2Proof.Laws.instr_wellFormed`). -/
def Instr.wellFormed (i : Instr) : Bool := i.written.wellFormed

/-- The operand of a list at a place, as a number (0 where there is none). -/
def Operand.numberAt (ops : List Operand) (k : Nat) : Nat :=
  match ops[k]? with
  | some (.reg n) => n
  | some (.imm n) => n
  | none => 0

/-- The instruction that a mnemonic and operands stand for, once they are known to fit. -/
def Written.build (t : Written) : Instr :=
  let r (k : Nat) : Reg := BitVec.ofNat 4 (Operand.numberAt t.operands k)
  let kk : Byte := BitVec.ofNat 8 (Operand.numberAt t.operands 1)
  let nnn : Addr := BitVec.ofNat 12 (Operand.numberAt t.operands 0)
  let n : RowCount := BitVec.ofNat 4 (Operand.numberAt t.operands 2)
  match t.mnemonic with
  | .clearScreen => .clearScreen
  | .ret => .ret
  | .jump => .jump nnn
  | .call => .call nnn
  | .skipValueEq => .skipValueEq (r 0) kk
  | .skipValueNe => .skipValueNe (r 0) kk
  | .skipRegEq => .skipRegEq (r 0) (r 1)
  | .setByValue => .setByValue (r 0) kk
  | .addToRegister => .addToRegister (r 0) kk
  | .setReg => .setReg (r 0) (r 1)
  | .orReg => .orReg (r 0) (r 1)
  | .andReg => .andReg (r 0) (r 1)
  | .xorReg => .xorReg (r 0) (r 1)
  | .addReg => .addReg (r 0) (r 1)
  | .subReg => .subReg (r 0) (r 1)
  | .shiftRight => .shiftRight (r 0) (r 1)
  | .subRegReverse => .subRegReverse (r 0) (r 1)
  | .shiftLeft => .shiftLeft (r 0) (r 1)
  | .skipRegNe => .skipRegNe (r 0) (r 1)
  | .setIRegister => .setIRegister nnn
  | .jumpV0 => .jumpV0 nnn
  | .setRandom => .setRandom (r 0) kk
  | .drawSprite => .drawSprite (r 0) (r 1) n
  | .skipKeyPressed => .skipKeyPressed (r 0)
  | .skipKeyNotPressed => .skipKeyNotPressed (r 0)
  | .storeDelayTimer => .storeDelayTimer (r 0)
  | .waitAndStoreKey => .waitAndStoreKey (r 0)
  | .setDelayTimer => .setDelayTimer (r 0)
  | .setSoundTimer => .setSoundTimer (r 0)
  | .addToI => .addToI (r 0)
  | .setIToChar => .setIToChar (r 0)
  | .storeBCD => .storeBCD (r 0)
  | .storeRegs => .storeRegs (r 0)
  | .fillRegs => .fillRegs (r 0)

/-- Assembling: the instruction of a well-formed written form, nothing for an ill-formed one. -/
def Written.assemble (t : Written) : Option Instr :=
  if t.wellFormed then some t.build else none

end Sys2Proof
end

