-- ==== Sys2Proof/Decode.lean ====
section
/-! DEFINITION. The fields of an instruction word (30_encoding.md R82), the decoder
(30_encoding.md R85), the encoder and the opcode table (30_encoding.md R83, R84). The opcode
numbers are the spec's, which it marks from general knowledge: UNVERIFIED (log 1). -/

namespace Sys2Proof

/-- `op` = `IR[15:12]` (R82). -/
def fieldOp (w : Word) : BitVec 4 := w.extractLsb' 12 4

/-- `x` = `IR[11:8]` (R82). -/
def fieldX (w : Word) : Reg := w.extractLsb' 8 4

/-- `y` = `IR[7:4]` (R82). -/
def fieldY (w : Word) : Reg := w.extractLsb' 4 4

/-- `n` = `IR[3:0]` (R82). -/
def fieldN (w : Word) : BitVec 4 := w.extractLsb' 0 4

/-- `kk` = `IR[7:0]` (R82). -/
def fieldKK (w : Word) : Byte := w.extractLsb' 0 8

/-- `nnn` = `IR[11:0]` (R82). -/
def fieldNNN (w : Word) : Addr := w.extractLsb' 0 12

/-- Why bytes are no instruction: there are fewer than two of them, or the word is one of the
failing words of the named family (30_encoding.md R87). -/
inductive DecodeReject where
  | tooShort
  | family0 | family5 | family8 | family9 | familyE | familyF
  deriving DecidableEq, Repr

/-- What a word decodes to: an instruction, or a decode failure by name (30_encoding.md R87). -/
inductive Decoded where
  | ok (i : Instr)
  | reject (r : DecodeReject)
  deriving DecidableEq, Repr

/-- The 0x0 family is matched on the whole word (R85, D2). -/
def decodeFamily0 (w : Word) : Decoded :=
  if w = 0x00E0 then .ok .clearScreen
  else if w = 0x00EE then .ok .ret
  else .reject .family0

/-- The ALU group, keyed by the low nibble (R85). -/
def decodeFamily8 (w : Word) : Decoded :=
  match fieldN w with
  | 0x0#4 => .ok (.setReg (fieldX w) (fieldY w))
  | 0x1#4 => .ok (.orReg (fieldX w) (fieldY w))
  | 0x2#4 => .ok (.andReg (fieldX w) (fieldY w))
  | 0x3#4 => .ok (.xorReg (fieldX w) (fieldY w))
  | 0x4#4 => .ok (.addReg (fieldX w) (fieldY w))
  | 0x5#4 => .ok (.subReg (fieldX w) (fieldY w))
  | 0x6#4 => .ok (.shiftRight (fieldX w) (fieldY w))
  | 0x7#4 => .ok (.subRegReverse (fieldX w) (fieldY w))
  | 0xE#4 => .ok (.shiftLeft (fieldX w) (fieldY w))
  | _ => .reject .family8

/-- The key skips, keyed by the low byte (R85). -/
def decodeFamilyE (w : Word) : Decoded :=
  match fieldKK w with
  | 0x9E#8 => .ok (.skipKeyPressed (fieldX w))
  | 0xA1#8 => .ok (.skipKeyNotPressed (fieldX w))
  | _ => .reject .familyE

/-- The 0xF family, keyed by the low byte (R85). -/
def decodeFamilyF (w : Word) : Decoded :=
  match fieldKK w with
  | 0x07#8 => .ok (.storeDelayTimer (fieldX w))
  | 0x0A#8 => .ok (.waitAndStoreKey (fieldX w))
  | 0x15#8 => .ok (.setDelayTimer (fieldX w))
  | 0x18#8 => .ok (.setSoundTimer (fieldX w))
  | 0x1E#8 => .ok (.addToI (fieldX w))
  | 0x29#8 => .ok (.setIToChar (fieldX w))
  | 0x33#8 => .ok (.storeBCD (fieldX w))
  | 0x55#8 => .ok (.storeRegs (fieldX w))
  | 0x65#8 => .ok (.fillRegs (fieldX w))
  | _ => .reject .familyF

/-- The decode procedure of 30_encoding.md R85, by the top nibble. Nothing but the word decides
(R90). -/
def decodeWord (w : Word) : Decoded :=
  match fieldOp w with
  | 0x0#4 => decodeFamily0 w
  | 0x1#4 => .ok (.jump (fieldNNN w))
  | 0x2#4 => .ok (.call (fieldNNN w))
  | 0x3#4 => .ok (.skipValueEq (fieldX w) (fieldKK w))
  | 0x4#4 => .ok (.skipValueNe (fieldX w) (fieldKK w))
  | 0x5#4 => if fieldN w = 0 then .ok (.skipRegEq (fieldX w) (fieldY w)) else .reject .family5
  | 0x6#4 => .ok (.setByValue (fieldX w) (fieldKK w))
  | 0x7#4 => .ok (.addToRegister (fieldX w) (fieldKK w))
  | 0x8#4 => decodeFamily8 w
  | 0x9#4 => if fieldN w = 0 then .ok (.skipRegNe (fieldX w) (fieldY w)) else .reject .family9
  | 0xA#4 => .ok (.setIRegister (fieldNNN w))
  | 0xB#4 => .ok (.jumpV0 (fieldNNN w))
  | 0xC#4 => .ok (.setRandom (fieldX w) (fieldKK w))
  | 0xD#4 => .ok (.drawSprite (fieldX w) (fieldY w) (fieldN w))
  | 0xE#4 => decodeFamilyE w
  | _ => decodeFamilyF w

/-- The word of two bytes, big-endian: the first byte is the high one (20_memory.md R50). -/
def wordOfBytes (hi lo : Byte) : Word := (hi ++ lo).cast rfl

/-- The high byte of a word, the one at the lower address (20_memory.md R50, R51). -/
def highByte (w : Word) : Byte := w.extractLsb' 8 8

/-- The low byte of a word (20_memory.md R50, R51). -/
def lowByte (w : Word) : Byte := w.extractLsb' 0 8

/-- Decoding a stream of bytes: the instruction of the first two, and the bytes after them.
Every instruction is two bytes long (30_encoding.md R80). -/
def decode : List Byte → Decoded × List Byte
  | hi :: lo :: rest => (decodeWord (wordOfBytes hi lo), rest)
  | bytes => (.reject .tooShort, bytes)

/-- Format `NNN`, `Pnnn` (R83). -/
def encodeNNN (op : BitVec 4) (nnn : Addr) : Word := (op ++ nnn).cast rfl

/-- Format `XKK`, `Pxkk` (R83); with a literal low byte, format `X`. -/
def encodeXKK (op : BitVec 4) (x : Reg) (kk : Byte) : Word := (op ++ x ++ kk).cast rfl

/-- Format `XYN`, `Pxyn` (R83); with a literal low nibble, format `XY`. -/
def encodeXYN (op : BitVec 4) (x y : Reg) (n : BitVec 4) : Word := (op ++ x ++ y ++ n).cast rfl

/-- The word of an instruction (30_encoding.md R83, R84). -/
def encode : Instr → Word
  | .clearScreen => 0x00E0
  | .ret => 0x00EE
  | .jump nnn => encodeNNN 0x1 nnn
  | .call nnn => encodeNNN 0x2 nnn
  | .skipValueEq x kk => encodeXKK 0x3 x kk
  | .skipValueNe x kk => encodeXKK 0x4 x kk
  | .skipRegEq x y => encodeXYN 0x5 x y 0x0
  | .setByValue x kk => encodeXKK 0x6 x kk
  | .addToRegister x kk => encodeXKK 0x7 x kk
  | .setReg x y => encodeXYN 0x8 x y 0x0
  | .orReg x y => encodeXYN 0x8 x y 0x1
  | .andReg x y => encodeXYN 0x8 x y 0x2
  | .xorReg x y => encodeXYN 0x8 x y 0x3
  | .addReg x y => encodeXYN 0x8 x y 0x4
  | .subReg x y => encodeXYN 0x8 x y 0x5
  | .shiftRight x y => encodeXYN 0x8 x y 0x6
  | .subRegReverse x y => encodeXYN 0x8 x y 0x7
  | .shiftLeft x y => encodeXYN 0x8 x y 0xE
  | .skipRegNe x y => encodeXYN 0x9 x y 0x0
  | .setIRegister nnn => encodeNNN 0xA nnn
  | .jumpV0 nnn => encodeNNN 0xB nnn
  | .setRandom x kk => encodeXKK 0xC x kk
  | .drawSprite x y n => encodeXYN 0xD x y n
  | .skipKeyPressed x => encodeXKK 0xE x 0x9E
  | .skipKeyNotPressed x => encodeXKK 0xE x 0xA1
  | .storeDelayTimer x => encodeXKK 0xF x 0x07
  | .waitAndStoreKey x => encodeXKK 0xF x 0x0A
  | .setDelayTimer x => encodeXKK 0xF x 0x15
  | .setSoundTimer x => encodeXKK 0xF x 0x18
  | .addToI x => encodeXKK 0xF x 0x1E
  | .setIToChar x => encodeXKK 0xF x 0x29
  | .storeBCD x => encodeXKK 0xF x 0x33
  | .storeRegs x => encodeXKK 0xF x 0x55
  | .fillRegs x => encodeXKK 0xF x 0x65

/-- The two bytes of an instruction, in the order memory holds them (20_memory.md R50). -/
def encodeBytes (i : Instr) : List Byte := [highByte (encode i), lowByte (encode i)]

/-- One row of the opcode table: a word `w` selects it iff `w & mask = bits` (30_encoding.md
R84). -/
structure OpcodeRow where
  mnemonic : Mnemonic
  bits : Word
  mask : Word
  deriving DecidableEq, Repr

/-- The word selects the row (30_encoding.md R84). -/
def OpcodeRow.selects (r : OpcodeRow) (w : Word) : Bool := w &&& r.mask == r.bits

/-- The 34 rows of 30_encoding.md R84, columns `match` and `mask`, in its order. -/
def opcodeTable : List OpcodeRow :=
  [⟨.clearScreen, 0x00E0, 0xFFFF⟩, ⟨.ret, 0x00EE, 0xFFFF⟩, ⟨.jump, 0x1000, 0xF000⟩,
   ⟨.call, 0x2000, 0xF000⟩, ⟨.skipValueEq, 0x3000, 0xF000⟩, ⟨.skipValueNe, 0x4000, 0xF000⟩,
   ⟨.skipRegEq, 0x5000, 0xF00F⟩, ⟨.setByValue, 0x6000, 0xF000⟩,
   ⟨.addToRegister, 0x7000, 0xF000⟩] ++
  [⟨.setReg, 0x8000, 0xF00F⟩, ⟨.orReg, 0x8001, 0xF00F⟩, ⟨.andReg, 0x8002, 0xF00F⟩,
   ⟨.xorReg, 0x8003, 0xF00F⟩, ⟨.addReg, 0x8004, 0xF00F⟩, ⟨.subReg, 0x8005, 0xF00F⟩,
   ⟨.shiftRight, 0x8006, 0xF00F⟩, ⟨.subRegReverse, 0x8007, 0xF00F⟩,
   ⟨.shiftLeft, 0x800E, 0xF00F⟩, ⟨.skipRegNe, 0x9000, 0xF00F⟩] ++
  [⟨.setIRegister, 0xA000, 0xF000⟩, ⟨.jumpV0, 0xB000, 0xF000⟩, ⟨.setRandom, 0xC000, 0xF000⟩,
   ⟨.drawSprite, 0xD000, 0xF000⟩, ⟨.skipKeyPressed, 0xE09E, 0xF0FF⟩,
   ⟨.skipKeyNotPressed, 0xE0A1, 0xF0FF⟩] ++
  [⟨.storeDelayTimer, 0xF007, 0xF0FF⟩, ⟨.waitAndStoreKey, 0xF00A, 0xF0FF⟩,
   ⟨.setDelayTimer, 0xF015, 0xF0FF⟩, ⟨.setSoundTimer, 0xF018, 0xF0FF⟩,
   ⟨.addToI, 0xF01E, 0xF0FF⟩, ⟨.setIToChar, 0xF029, 0xF0FF⟩, ⟨.storeBCD, 0xF033, 0xF0FF⟩,
   ⟨.storeRegs, 0xF055, 0xF0FF⟩, ⟨.fillRegs, 0xF065, 0xF0FF⟩]

/-- The instruction word of an opcode-table number: bit 0 of `w` is the word's least significant
bit, and bits from `nbits` up are 0 (log 26). -/
def tableWord (nbits w : Nat) : Word := BitVec.ofNat 16 (w % 2 ^ nbits)

/-- The instruction the decoder reads from an instruction whose bits are `w`, numbered as
spec/opcode_table.json numbers them: the word is laid out big-endian and decoded. -/
def decodeTableWord (nbits w : Nat) : Option Instr :=
  match decode [highByte (tableWord nbits w), lowByte (tableWord nbits w)] with
  | (.ok i, _) => some i
  | (.reject _, _) => none

end Sys2Proof
end

