-- ==== Sys2Proof/Config.lean ====
section
/-! DEFINITION. What one implementation fixes: the parameters of 00_scope.md R5 and R6, the
open ones as constants without a value, and the free values that stand for the answers of the
Keyboard and of the random source (10_state.md R36; 93_implementation_defined.md U5, U6). -/

namespace Sys2Proof

/-- `MEM_SIZE` (00_scope.md R5). -/
def Config.memSize : Nat := 0x1000

/-- `ROM_BASE` (00_scope.md R5). -/
def Config.romBase : Nat := 0x200

/-- `ROM_MAX` (00_scope.md R5). -/
def Config.romMax : Nat := 3584

/-- `STACK_DEPTH`, in entries of two bytes (00_scope.md R5). -/
def Config.stackDepth : Nat := 16

/-- `STACK_ORIGIN` (00_scope.md R6, the spec's decision D3). -/
def Config.stackOrigin : Word := 0x1000

/-- `STACK_LIMIT` = `STACK_ORIGIN` - 2 * `STACK_DEPTH` (00_scope.md R6). -/
def Config.stackLimit : Word := 0xFE0

/-- The number of font bytes, `FONT[0..79]` at `FONT_BASE` = 0x000 (00_scope.md R5). -/
def Config.fontSize : Nat := 80

/-- The recommended default of `FONT[0..79]`, one glyph a line (10_state.md R33). `FONT` is a
parameter (D18): no instruction depends on it, and `State.powerOn` takes any font.
DESIGN CHOICE (log 8), unsafe. -/
def Config.font : List Byte :=
  [0xF0, 0x90, 0x90, 0x90, 0xF0] ++
  [0x20, 0x60, 0x20, 0x20, 0x70] ++
  [0xF0, 0x10, 0xF0, 0x80, 0xF0] ++
  [0xF0, 0x10, 0xF0, 0x10, 0xF0] ++
  [0x90, 0x90, 0xF0, 0x10, 0x10] ++
  [0xF0, 0x80, 0xF0, 0x10, 0xF0] ++
  [0xF0, 0x80, 0xF0, 0x90, 0xF0] ++
  [0xF0, 0x10, 0x20, 0x40, 0x40] ++
  [0xF0, 0x90, 0xF0, 0x90, 0xF0] ++
  [0xF0, 0x90, 0xF0, 0x10, 0xF0] ++
  [0xF0, 0x90, 0xF0, 0x90, 0x90] ++
  [0xE0, 0x90, 0xE0, 0x90, 0xE0] ++
  [0xF0, 0x80, 0x80, 0x80, 0xF0] ++
  [0xE0, 0x90, 0x90, 0x90, 0xE0] ++
  [0xF0, 0x80, 0xF0, 0x80, 0xF0] ++
  [0xF0, 0x80, 0xF0, 0x80, 0x80]

/-- The two settings of `SHIFT_SOURCE` (00_scope.md R6, D9). -/
inductive ShiftSource where
  | vx
  | vy
  deriving DecidableEq, Repr, Inhabited

/-- `SHIFT_SOURCE`: open, so a constant without a value (log 6), safe. -/
opaque Config.shiftSource : ShiftSource

/-- `DISPLAY_WIDTH` less one: open, so a constant without a value (log 7). -/
opaque Config.displayWidthLessOne : Nat

/-- `DISPLAY_HEIGHT` less one: open, so a constant without a value (log 7). -/
opaque Config.displayHeightLessOne : Nat

/-- `DISPLAY_WIDTH`, a positive number (D17). DEDUCED that it is positive: FlipPixel reduces
modulo it (log 7). -/
def Config.displayWidth : Nat := Config.displayWidthLessOne + 1

/-- `DISPLAY_HEIGHT`, a positive number (D17; log 7). -/
def Config.displayHeight : Nat := Config.displayHeightLessOne + 1

/-- The answer of `Keyboard.IsKeyDown(k)` to the machine's query number `q`: free
(60_exceptions.md R222, U5; log 4). -/
opaque Config.keyDown : Nat → BitVec 4 → Bool

/-- The answer of `Keyboard.WaitForKey()` to query number `q`: free, five bits
(60_exceptions.md R223, U5; log 4, 22). -/
opaque Config.waitForKey : Nat → BitVec 5

/-- The byte of `Random.Byte()` at query number `q`: free (60_exceptions.md R224, U6; log 4). -/
opaque Config.randomByte : Nat → Byte

end Sys2Proof
end

