-- ==== Sys2Proof/Machine/State.lean ====
section
/-! DEFINITION. The state of the machine (10_state.md R20 to R38), the events that make it move
(00_scope.md R7; 60_exceptions.md R226), the ways a step ends, and the state after power-on. -/

namespace Sys2Proof.Machine

/-- Memory: the bytes that differ from what an unlisted address reads as (`Memory.fill`), in
rising address order (10_state.md R33, R34). -/
abbrev Memory := List Host.Cell

/-- A pixel of the plane: its row, then its column (10_state.md R35). -/
abbrev Pixel := Nat × Nat

/-- The plane `PIX`: the pixels that are set, row by row, left to right (10_state.md R35). -/
abbrev Plane := List Pixel

/-- `HALT_CAUSE` (10_state.md R30; codes in 60_exceptions.md R201). Codes 5 to 7 never occur
(U20; log 21). -/
inductive HaltCause where
  | none
  | decodeFailure
  | stackFault
  | accessFault
  | keyFault
  deriving DecidableEq, Repr

/-- The code of a cause (60_exceptions.md R201). -/
def HaltCause.code : HaltCause → BitVec 3
  | .none => 0
  | .decodeFailure => 1
  | .stackFault => 2
  | .accessFault => 3
  | .keyFault => 4

/-- One transaction on a port (60_exceptions.md R220 to R225), with its arguments and reply.
FlipPixel's arguments are the unreduced sums the core issues (R221). -/
inductive PortCall where
  | displayClear
  | flipPixel (x y : Nat) (was : Bool)
  | isKeyDown (key : BitVec 4) (down : Bool)
  | waitForKey (reply : BitVec 5)
  | randomByte (reply : Byte)
  | startBeeping
  | stopBeeping
  deriving DecidableEq, Repr

/-- What the host may inspect (60_exceptions.md R226: "any state of 10_state.md"). A pixel is
named by its row and column, which may lie outside the plane: DESIGN CHOICE (log 28). -/
inductive Inspectable where
  | v (x : Reg)
  | i | pc | sp | dt | st | run | haltCause | ir | waitActive | waitReg
  | mem (a : Addr)
  | pix (row col : Nat)
  | beep
  deriving DecidableEq, Repr

/-- The host's commands (60_exceptions.md R226). A ROM is a raw byte buffer whose length is the
command's length (log 16). -/
inductive HostCommand where
  | loadRom (rom : List Byte)
  | reset
  | run
  | stop
  | readStatus
  | inspect (what : Inspectable)
  deriving DecidableEq, Repr

/-- What the host gets back (60_exceptions.md R209, R226). -/
inductive HostReply where
  | loaded
  | loadFailure
  | resetDone
  | stopped
  | status (run : Bool) (cause : HaltCause)
  | value (n : Nat)
  deriving DecidableEq, Repr

/-- One atomic step of one agent: the instruction engine's, the timer engine's, or a command of
the host (20_memory.md R61). -/
inductive Event where
  | instruction
  | tick
  | host (c : HostCommand)
  deriving DecidableEq, Repr

/-- The state of the machine. -/
structure State where
  /-- `V[0]`..`V[15]` (10_state.md R20). -/
  v : Vector Byte 16
  /-- `I` (R24). -/
  i : Word
  /-- `PC` (R25). -/
  pc : Word
  /-- `SP` (R27). -/
  sp : Word
  /-- `DT` (R28). -/
  dt : Byte
  /-- `ST` (R28). -/
  st : Byte
  /-- `RUN`: true is RUNNING (R29). -/
  run : Bool
  /-- `HALT_CAUSE` (R30). -/
  haltCause : HaltCause
  /-- `IR` (R31). -/
  ir : Word
  /-- `WAIT.active` (R32). -/
  waitActive : Bool
  /-- `WAIT.reg` (R32). -/
  waitReg : Reg
  /-- `Mem` (R33). -/
  mem : Memory
  /-- `PIX`, in the Display (R35). -/
  pix : Plane
  /-- `BEEP`, in the Beeper: true is tone on (R35). -/
  beep : Bool
  /-- The model's own: how many oracle queries were made, the argument of the free values
  (log 4). -/
  queries : Nat
  /-- The model's own: the port transactions issued, newest first (log 18). -/
  trace : List PortCall
  /-- The model's own: the events to come, first one first, the free interleaving of the agents
  (60_exceptions.md R214; log 2). -/
  agenda : List Event
  /-- The model's own: what the host got back from its latest command that answers (log 19). -/
  hostReply : Option HostReply
  deriving DecidableEq, Repr

/-- Faults of the model: none. The spec describes the entry of each of its four faults
(60_exceptions.md R203), so each is a next state with `RUN` = 0 and its `HALT_CAUSE`, and nothing
raises a fault of this type (log 13); safe. -/
inductive Fault
  deriving DecidableEq, Repr

/-- Refusals of the model. -/
inductive Refusal where
  /-- An instruction without a meaning yet: raised by no arm of `exec`; safe. -/
  | notModelled (mnemonic : String)
  /-- LoadRom or inspect issued while RUNNING, which 93_implementation_defined.md U1 calls
  undefined and treats as `refuse`: raised by `hostCommand` (log 15); safe. -/
  | hostWhileRunning
  deriving DecidableEq, Repr

/-- How a meaning or a step ends. -/
abbrev Result := Host.Outcome State Fault Refusal

/-- What the next step is to do, before an instruction's own meaning: it is settled already (a
tick, a host command, a poll, an idle step, a fault of fetch or decode), or an instruction is to
be executed in the state its fetch left, or the step is refused. -/
inductive Move where
  | settled (s : State)
  | execute (i : Instr) (s : State)
  | refuse (r : Refusal)
  deriving DecidableEq, Repr

/-- The state after power-on (10_state.md R38, 70_reset_and_hazards.md R250). The values the spec
leaves unspecified there (`IR`, `WAIT.reg`, memory outside the font, `PIX`, `BEEP`) and the font
are DESIGN CHOICE (log 8 to 11), unsafe; `State.powerOn` takes them as arguments. -/
def State.reset : State where
  v := Vector.replicate 16 0
  i := 0
  pc := 0x200
  sp := Config.stackOrigin
  dt := 0
  st := 0
  run := false
  haltCause := .none
  ir := 0
  waitActive := false
  waitReg := 0
  mem := []
  pix := []
  beep := false
  queries := 0
  trace := []
  agenda := []
  hostReply := none

end Sys2Proof.Machine
end

