-- ==== Sys2Proof/Machine/Ops.lean ====
section
/-! DEFINITION. The named operations over memory, the plane and the registers; the call stack;
taking a fault. -/

namespace Sys2Proof.Machine

/-! ### Memory (20_memory.md) -/

/-- What an address that is not listed reads as: the default font below 0x050 (10_state.md R33;
log 8), 0 elsewhere (R34 leaves it open: DESIGN CHOICE, log 9, unsafe). -/
def Memory.fill (a : Nat) : Byte := Config.font.getD a 0

/-- The byte at an address. A read has no side effect (20_memory.md R59). -/
def Memory.byte : Memory → Nat → Byte
  | [], a => Memory.fill a
  | c :: m, a => if c.1 = a then c.2 else Memory.byte m a

/-- The memory without an entry for the address. -/
def Memory.erase (m : Memory) (a : Nat) : Memory := m.filter fun c => c.1 != a

/-- An entry put at its place in the rising order. -/
def Memory.insert : Memory → Host.Cell → Memory
  | [], c => [c]
  | d :: m, c => if c.1 < d.1 then c :: d :: m else d :: Memory.insert m c

/-- One byte written, in the canonical form: an entry equal to what an unlisted address reads as
is not kept, and no address of 0x1000 or above is ever listed. -/
def Memory.write (m : Memory) (a : Nat) (b : Byte) : Memory :=
  if a < Config.memSize then
    if b = Memory.fill a then m.erase a else (m.erase a).insert (a, b)
  else m

/-- Bytes written at ascending addresses (20_memory.md R52). -/
def Memory.writeBytes : Memory → Nat → List Byte → Memory
  | m, _, [] => m
  | m, a, b :: bs => Memory.writeBytes (m.write a b) (a + 1) bs

/-- The canonical form: addresses strictly rising and below 0x1000, no entry equal to what an
unlisted address reads as. -/
abbrev Memory.wf (m : Memory) : Prop :=
  m.Pairwise (fun c d => c.1 < d.1) ∧ ∀ c ∈ m, c.1 < Config.memSize ∧ c.2 ≠ Memory.fill c.1

/-- An access of `len` bytes at `a` is in range: it touches no address above 0xFFF; with `len` = 0
it forms no address (20_memory.md R53, R55). The address is not reduced. -/
def inRange (a len : Nat) : Bool := decide (len = 0 ∨ a + len ≤ Config.memSize)

/-- `MemRead(a, 1)`: nothing where it would raise AccessFault (00_scope.md section 5). -/
def State.readByte (s : State) (a : Nat) : Option Byte :=
  if inRange a 1 then some (s.mem.byte a) else none

/-- `MemRead(a, 2)`, big-endian (20_memory.md R50, R51). -/
def State.readWord (s : State) (a : Nat) : Option Word :=
  if inRange a 2 then some (wordOfBytes (s.mem.byte a) (s.mem.byte (a + 1))) else none

/-- `MemWrite(a, 2, w)`, big-endian (20_memory.md R51): nothing where it would raise
AccessFault. -/
def State.writeWord (s : State) (a : Nat) (w : Word) : Option State :=
  if inRange a 2 then
    some { s with mem := s.mem.writeBytes a [highByte w, lowByte w] }
  else none

/-! ### The plane (10_state.md R35) -/

/-- The pixel is set. -/
def Plane.lit (p : Plane) (q : Pixel) : Bool := p.contains q

/-- Row by row, left to right. -/
def Pixel.before (p q : Pixel) : Bool := decide (p.1 < q.1 ∨ (p.1 = q.1 ∧ p.2 < q.2))

/-- A pixel put at its place in the order of rows and columns. -/
def Plane.insert : Plane → Pixel → Plane
  | [], q => [q]
  | p :: ps, q => if Pixel.before q p then q :: p :: ps else p :: Plane.insert ps q

/-- The pixel inverted. -/
def Plane.toggle (p : Plane) (q : Pixel) : Plane :=
  if p.lit q then p.filter fun r => r != q else p.insert q

/-- The canonical form of a plane of the given size: in order, no repeats, inside the bounds. -/
abbrev Plane.wf (width height : Nat) (p : Plane) : Prop :=
  p.Pairwise (fun q r => Pixel.before q r = true) ∧ ∀ q ∈ p, q.1 < height ∧ q.2 < width

/-! ### Registers (10_state.md R20, R23) -/

/-- `V[x]`. No register is hardwired (R20). -/
def State.reg (s : State) (x : Reg) : Byte := s.v[x.toNat]

/-- `V[x] <- b`. -/
def State.setReg (s : State) (x : Reg) (b : Byte) : State :=
  { s with v := s.v.set x.toNat b x.isLt }

/-- `PC <- w`. -/
def State.jumpTo (s : State) (w : Word) : State := { s with pc := w }

/-- `I <- w`. -/
def State.setIndex (s : State) (w : Word) : State := { s with i := w }

/-- `if c: PC <- PC + 2`: the skip, always exactly two bytes (40_control_flow.md R104). -/
def State.skipIf (s : State) (c : Bool) : State :=
  { s with pc := if c then s.pc + 2 else s.pc }

/-! ### Taking a fault (60_exceptions.md R203) -/

/-- Fault entry: `HALT_CAUSE` receives the cause, `RUN` is cleared, nothing else changes. There is
no handler and no return from it (R215): the ways on are `hostRun` and `hostReset`. -/
def State.raise (s : State) (c : HaltCause) : State := { s with haltCause := c, run := false }

/-! ### The call stack (10_state.md R27) -/

/-- A push: `SP <- SP - 2`, then the word at the new `SP` (40_control_flow.md R103). Where `SP` is
outside its window, in states no run reaches, an access that leaves memory gives nothing
(log 17). -/
def State.push (s : State) (w : Word) : Option State :=
  ({ s with sp := s.sp - 2 }).writeWord (s.sp - 2).toNat w

/-- A pop: the word at `SP`, then `SP <- SP + 2` (40_control_flow.md R100; log 17). -/
def State.pop (s : State) : Option (Word × State) :=
  match s.readWord s.sp.toNat with
  | some w => some (w, { s with sp := s.sp + 2 })
  | none => none

end Sys2Proof.Machine
end

