-- ==== Sys2Proof/Machine/Operands.lean ====
section
/-! DEFINITION. The operand forms: immediates, effective addresses, the operand of a shift, a key
number, the register range of a block copy, the digits of a byte. -/

namespace Sys2Proof.Machine

/-- `zext_16(nnn)` (30_encoding.md R89, D34). -/
def wordOfAddr (nnn : Addr) : Word := nnn.setWidth 16

/-- `zext_16(b)`. -/
def wordOfByte (b : Byte) : Word := b.setWidth 16

/-- The effective address `I + k`, without wrap (42_index_memory.md R147). -/
def State.ea (s : State) (k : Nat) : Nat := s.i.toNat + k

/-- The data range `[I, I + len)` is within memory (20_memory.md R55). -/
def State.dataInRange (s : State) (len : Nat) : Bool := inRange s.i.toNat len

/-- The operand of a shift under a setting of `SHIFT_SOURCE` (41_register_alu.md R128, R130). -/
def State.shiftOperand (s : State) (src : ShiftSource) (x y : Reg) : Byte :=
  match src with
  | .vx => s.reg x
  | .vy => s.reg y

/-- The key a register names: nothing when its value is above 15 (44_keyboard_timers.md R170). -/
def State.keyOperand (s : State) (x : Reg) : Option (BitVec 4) :=
  if (s.reg x).toNat ≤ 15 then some ((s.reg x).setWidth 4) else none

/-- How many registers a block copy of `V[0]..V[x]` moves (42_index_memory.md R144, R145). -/
def blockLength (x : Reg) : Nat := x.toNat + 1

/-- The bytes `V[0]`, .., `V[x]` (42_index_memory.md R144). -/
def State.regsUpTo (s : State) (x : Reg) : List Byte := s.v.toList.take (blockLength x)

/-- `V[0]`, .., `V[k-1]` loaded, ascending, from `Mem[I]`, .. (42_index_memory.md R145). -/
def State.loadRegs (s : State) : Nat → State
  | 0 => s
  | k + 1 => (s.loadRegs k).setReg (BitVec.ofNat 4 k) (s.mem.byte (s.ea k))

/-- Hundreds, tens and units, each in a byte of its own (42_index_memory.md R143). -/
def bcdDigits (b : Byte) : List Byte :=
  [BitVec.ofNat 8 (b.toNat / 100), BitVec.ofNat 8 (b.toNat / 10 % 10),
   BitVec.ofNat 8 (b.toNat % 10)]

/-- `5 * zext_16(b)` (42_index_memory.md R142). -/
def glyphAddress (b : Byte) : Word := 5 * wordOfByte b

/-- Bit `7 - c` of a sprite row: column 0 is bit 7, the leftmost (43_display_random.md R163). -/
def spriteBit (b : Byte) (c : Nat) : Bool := b.getLsbD (7 - c)

end Sys2Proof.Machine
end

