-- ==== Sys2Proof/Machine/ControlFlow.lean ====
section
/-! DEFINITION. Control transfer (40_control_flow.md). In every meaning `PC` has already been
advanced by the fetch (30_encoding.md R81). -/

namespace Sys2Proof.Machine

/-- Return (R100). -/
def execRet (s : State) : Result :=
  if s.sp = Config.stackOrigin then .next (s.raise .stackFault)
  else
    match s.pop with
    | some (w, t) => .next (t.jumpTo w)
    | none => .next (s.raise .accessFault)

/-- Jump (R101). -/
def execJump (nnn : Addr) (s : State) : Result := .next (s.jumpTo (wordOfAddr nnn))

/-- JumpV0 (R102): the offset is always `V[0]`; the sum is not reduced to 12 bits. -/
def execJumpV0 (nnn : Addr) (s : State) : Result :=
  .next (s.jumpTo (wordOfAddr nnn + wordOfByte (s.reg 0)))

/-- Call (R103). -/
def execCall (nnn : Addr) (s : State) : Result :=
  if s.sp = Config.stackLimit then .next (s.raise .stackFault)
  else
    match s.push s.pc with
    | some t => .next (t.jumpTo (wordOfAddr nnn))
    | none => .next (s.raise .accessFault)

/-- SkipValueEq (R104). -/
def execSkipValueEq (x : Reg) (kk : Byte) (s : State) : Result :=
  .next (s.skipIf (s.reg x == kk))

/-- SkipValueNe (R105). -/
def execSkipValueNe (x : Reg) (kk : Byte) (s : State) : Result :=
  .next (s.skipIf (s.reg x != kk))

/-- SkipRegEq (R106). -/
def execSkipRegEq (x y : Reg) (s : State) : Result :=
  .next (s.skipIf (s.reg x == s.reg y))

/-- SkipRegNe (R107). -/
def execSkipRegNe (x y : Reg) (s : State) : Result :=
  .next (s.skipIf (s.reg x != s.reg y))

end Sys2Proof.Machine
end

