-- ==== Sys2Proof/Machine/Flags.lean ====
section
/-! DEFINITION. The flag `VF` (10_state.md R22, R23; 41_register_alu.md R131, R132): what each
flag-writing instruction stores in it, and the write of a result followed by the flag. -/

namespace Sys2Proof.Machine

/-- A flag write stores 0x00 or 0x01 (10_state.md R22). -/
def flagByte (f : Bool) : Byte := if f then 1 else 0

/-- The carry of an 8-bit add: the true sum is above 255 (41_register_alu.md R131). -/
def addCarry (a b : Byte) : Bool := decide (a.toNat + b.toNat > 255)

/-- "No borrow" of the subtraction `a - b`: `a >= b` (41_register_alu.md R131). -/
def noBorrow (a b : Byte) : Bool := decide (a.toNat ≥ b.toNat)

/-- The bit a right shift drops, bit 0 (41_register_alu.md R128). -/
def droppedRight (a : Byte) : Bool := a.getLsbD 0

/-- The bit a left shift drops, bit 7 (41_register_alu.md R130). -/
def droppedLeft (a : Byte) : Bool := a.getLsbD 7

/-- `VF <- f`. -/
def State.setFlag (s : State) (f : Bool) : State := s.setReg vf (flagByte f)

/-- The result to `V[x]`, then the flag to `VF`, so that with `x` = 15 the flag wins
(10_state.md R23, 41_register_alu.md R132). -/
def State.setResultFlag (s : State) (x : Reg) (r : Byte) (f : Bool) : State :=
  (s.setReg x r).setFlag f

end Sys2Proof.Machine
end

