-- ==== Sys2Proof/Machine/Ports.lean ====
section
/-! DEFINITION. The ports to the collaborators (60_exceptions.md R220 to R225): the contract each
one offers, and the record of each transaction in `trace` (log 18). -/

namespace Sys2Proof.Machine

/-- `Display.Clear()`: every pixel becomes unset (R221). -/
def State.displayClear (s : State) : State :=
  { s with pix := [], trace := .displayClear :: s.trace }

/-- `Display.FlipPixel(x, y)` on a plane of the given size: toggles the pixel at
`(x mod width, y mod height)` and answers whether it was set (R221). -/
def State.flipPixel (s : State) (width height x y : Nat) : State × Bool :=
  let q : Pixel := (y % height, x % width)
  ({ s with pix := s.pix.toggle q, trace := .flipPixel x y (s.pix.lit q) :: s.trace }, s.pix.lit q)

/-- `Beeper.StartBeeping()`, idempotent (R225). -/
def State.startBeeping (s : State) : State :=
  { s with beep := true, trace := .startBeeping :: s.trace }

/-- `Beeper.StopBeeping()`, idempotent (R225). -/
def State.stopBeeping (s : State) : State :=
  { s with beep := false, trace := .stopBeeping :: s.trace }

/-- A query to an oracle and its reply: the transaction is recorded, and the next query is a fresh
one (10_state.md R36; log 4). -/
def State.query (s : State) (c : PortCall) : State :=
  { s with queries := s.queries + 1, trace := c :: s.trace }

end Sys2Proof.Machine
end

