-- ==== Sys2Proof/Machine/DisplayRandom.lean ====
section
/-! DEFINITION. Display and random instructions (43_display_random.md). -/

namespace Sys2Proof.Machine

/-- ClearScreen (R160). -/
def execClearScreen (s : State) : Result := .next s.displayClear

/-- One column of a sprite row: a set bit flips its pixel, and the flag collects whether a pixel
went from set to unset (R161). -/
def drawColumn (width height px y : Nat) (b : Byte) (d : State × Bool) (c : Nat) : State × Bool :=
  if spriteBit b c then
    let r := d.1.flipPixel width height (px + c) y
    (r.1, d.2 || r.2)
  else d

/-- One row of a sprite: columns 0 to 7, ascending (R161). -/
def drawRow (width height px y : Nat) (b : Byte) (d : State × Bool) : State × Bool :=
  (List.range 8).foldl (drawColumn width height px y b) d

/-- The first `n` rows of the sprite at `I`, ascending, on a plane of the given size, from the
column `px` and the row `py` on; with the flag (R161). -/
def State.drawRows (s : State) (width height px py : Nat) : Nat → State × Bool
  | 0 => (s, false)
  | r + 1 =>
    drawRow width height px (py + r) (s.mem.byte (s.ea r)) (s.drawRows width height px py r)

/-- DrawSprite on a plane of the given size, once its bytes are known to be in range: the
coordinates are read before `VF` is written (R161). -/
def State.drawSpriteWith (width height : Nat) (x y : Reg) (n : RowCount) (s : State) : State :=
  let d := s.drawRows width height (s.reg x).toNat (s.reg y).toNat n.toNat
  d.1.setFlag d.2

/-- DrawSprite (R161); the size of the plane is open (log 7). -/
def execDrawSprite (x y : Reg) (n : RowCount) (s : State) : Result :=
  if s.dataInRange n.toNat then
    .next (s.drawSpriteWith Config.displayWidth Config.displayHeight x y n)
  else .next (s.raise .accessFault)

/-- SetRandom (R162) with a given draw. -/
def State.setRandomWith (rnd : Byte) (x : Reg) (kk : Byte) (s : State) : State :=
  (s.query (.randomByte rnd)).setReg x (rnd &&& kk)

/-- SetRandom (R162): the draw is a free value (log 4). -/
def execSetRandom (x : Reg) (kk : Byte) (s : State) : Result :=
  .next (s.setRandomWith (Config.randomByte s.queries) x kk)

end Sys2Proof.Machine
end

