-- ==== Sys2Proof/Machine/IndexMemory.lean ====
section
/-! DEFINITION. Index register and memory instructions (42_index_memory.md). The range check comes
once, before any effect (20_memory.md R55). -/

namespace Sys2Proof.Machine

/-- SetIRegister (R140). -/
def execSetIRegister (nnn : Addr) (s : State) : Result := .next (s.setIndex (wordOfAddr nnn))

/-- AddToI (R141): wraps at 16 bits, writes no flag. -/
def execAddToI (x : Reg) (s : State) : Result :=
  .next (s.setIndex (s.i + wordOfByte (s.reg x)))

/-- SetIToChar (R142): the whole register value times 5. -/
def execSetIToChar (x : Reg) (s : State) : Result :=
  .next (s.setIndex (glyphAddress (s.reg x)))

/-- StoreBCD (R143). -/
def execStoreBCD (x : Reg) (s : State) : Result :=
  if s.dataInRange 3 then
    .next { s with mem := s.mem.writeBytes (s.ea 0) (bcdDigits (s.reg x)) }
  else .next (s.raise .accessFault)

/-- StoreRegs (R144): `I` is unchanged (R146). -/
def execStoreRegs (x : Reg) (s : State) : Result :=
  if s.dataInRange (blockLength x) then
    .next { s with mem := s.mem.writeBytes (s.ea 0) (s.regsUpTo x) }
  else .next (s.raise .accessFault)

/-- FillRegs (R145): `I` is unchanged (R146). -/
def execFillRegs (x : Reg) (s : State) : Result :=
  if s.dataInRange (blockLength x) then .next (s.loadRegs (blockLength x))
  else .next (s.raise .accessFault)

end Sys2Proof.Machine
end

