-- ==== Sys2Proof/Machine/KeyboardTimers.lean ====
section
/-! DEFINITION. Keyboard and timer instructions (44_keyboard_timers.md), the poll of a pending key
wait (R177) and the timer engine's tick (60_exceptions.md R212). -/

namespace Sys2Proof.Machine

/-- SkipKeyPressed (R170) with a given answer of the Keyboard. -/
def State.skipKeyPressedWith (k : BitVec 4) (down : Bool) (s : State) : State :=
  (s.query (.isKeyDown k down)).skipIf down

/-- SkipKeyNotPressed (R171) with a given answer of the Keyboard. -/
def State.skipKeyNotPressedWith (k : BitVec 4) (down : Bool) (s : State) : State :=
  (s.query (.isKeyDown k down)).skipIf (!down)

/-- SkipKeyPressed (R170): the answer is a free value (log 4). -/
def execSkipKeyPressed (x : Reg) (s : State) : Result :=
  match s.keyOperand x with
  | some k => .next (s.skipKeyPressedWith k (Config.keyDown s.queries k))
  | none => .next (s.raise .keyFault)

/-- SkipKeyNotPressed (R171): the answer is a free value (log 4). -/
def execSkipKeyNotPressed (x : Reg) (s : State) : Result :=
  match s.keyOperand x with
  | some k => .next (s.skipKeyNotPressedWith k (Config.keyDown s.queries k))
  | none => .next (s.raise .keyFault)

/-- StoreDelayTimer (R172). -/
def execStoreDelayTimer (x : Reg) (s : State) : Result := .next (s.setReg x s.dt)

/-- WaitAndStoreKey (R173), the step that fetches it; the polls follow (`State.poll`). -/
def execWaitAndStoreKey (x : Reg) (s : State) : Result :=
  .next { s with waitReg := x, waitActive := true }

/-- SetDelayTimer (R174). -/
def execSetDelayTimer (x : Reg) (s : State) : Result := .next { s with dt := s.reg x }

/-- SetSoundTimer (R175): a nonzero value starts the Beeper, zero issues no command (D24). -/
def execSetSoundTimer (x : Reg) (s : State) : Result :=
  .next (if s.reg x = 0 then { s with st := s.reg x }
    else ({ s with st := s.reg x }).startBeeping)

/-- The end of a key wait: `WAIT.active <- 0`. -/
def State.endWait (s : State) : State := { s with waitActive := false }

/-- One poll (R177) with a given reply: 0 to 15 is a key and ends the wait, anything above means
"no key yet" (D35). -/
def State.pollWith (k : BitVec 5) (s : State) : State :=
  if k.toNat ≤ 15 then
    ((s.query (.waitForKey k)).setReg s.waitReg (k.setWidth 8)).endWait
  else s.query (.waitForKey k)

/-- One poll (R177): the reply is a free value (log 4). -/
def State.poll (s : State) : State := s.pollWith (Config.waitForKey s.queries)

/-- The delay timer's part of a tick (60_exceptions.md R212). -/
def State.tickDelay (s : State) : State := if s.dt = 0 then s else { s with dt := s.dt - 1 }

/-- The sound timer's part of a tick: the step from 1 to 0, and no other, stops the Beeper
(60_exceptions.md R212, D24). -/
def State.tickSound (s : State) : State :=
  if s.st = 0 then s
  else if s.st - 1 = 0 then ({ s with st := s.st - 1 }).stopBeeping
  else { s with st := s.st - 1 }

/-- One tick, enabled only while RUNNING (60_exceptions.md R212, R213). -/
def State.tick (s : State) : State := if s.run then s.tickDelay.tickSound else s

end Sys2Proof.Machine
end

