-- ==== Sys2Proof/Machine/RegisterAlu.lean ====
section
/-! DEFINITION. Register and ALU instructions (41_register_alu.md). Operands are read first, then
`V[x]` is written, then the flag (R132). -/

namespace Sys2Proof.Machine

/-- SetByValue (R120). -/
def execSetByValue (x : Reg) (kk : Byte) (s : State) : Result := .next (s.setReg x kk)

/-- AddToRegister (R121): wraps, writes no flag. -/
def execAddToRegister (x : Reg) (kk : Byte) (s : State) : Result :=
  .next (s.setReg x (s.reg x + kk))

/-- SetReg (R122). -/
def execSetReg (x y : Reg) (s : State) : Result := .next (s.setReg x (s.reg y))

/-- Or (R123): writes no flag. -/
def execOrReg (x y : Reg) (s : State) : Result := .next (s.setReg x (s.reg x ||| s.reg y))

/-- And (R124): writes no flag. -/
def execAndReg (x y : Reg) (s : State) : Result := .next (s.setReg x (s.reg x &&& s.reg y))

/-- Xor (R125): writes no flag. -/
def execXorReg (x y : Reg) (s : State) : Result := .next (s.setReg x (s.reg x ^^^ s.reg y))

/-- AddReg (R126). -/
def execAddReg (x y : Reg) (s : State) : Result :=
  .next (s.setResultFlag x (s.reg x + s.reg y) (addCarry (s.reg x) (s.reg y)))

/-- SubReg (R127): `V[x] - V[y]`. -/
def execSubReg (x y : Reg) (s : State) : Result :=
  .next (s.setResultFlag x (s.reg x - s.reg y) (noBorrow (s.reg x) (s.reg y)))

/-- SubRegReverse (R129): `V[y] - V[x]`. -/
def execSubRegReverse (x y : Reg) (s : State) : Result :=
  .next (s.setResultFlag x (s.reg y - s.reg x) (noBorrow (s.reg y) (s.reg x)))

/-- ShiftRight (R128) under a setting of `SHIFT_SOURCE`: logical, by one position. -/
def State.shiftRightWith (src : ShiftSource) (x y : Reg) (s : State) : State :=
  s.setResultFlag x (s.shiftOperand src x y >>> 1) (droppedRight (s.shiftOperand src x y))

/-- ShiftLeft (R130) under a setting of `SHIFT_SOURCE`: by one position. -/
def State.shiftLeftWith (src : ShiftSource) (x y : Reg) (s : State) : State :=
  s.setResultFlag x (s.shiftOperand src x y <<< 1) (droppedLeft (s.shiftOperand src x y))

/-- ShiftRight (R128); `SHIFT_SOURCE` is open (log 6). -/
def execShiftRight (x y : Reg) (s : State) : Result :=
  .next (s.shiftRightWith Config.shiftSource x y)

/-- ShiftLeft (R130); `SHIFT_SOURCE` is open (log 6). -/
def execShiftLeft (x y : Reg) (s : State) : Result :=
  .next (s.shiftLeftWith Config.shiftSource x y)

end Sys2Proof.Machine
end

