-- ==== Sys2Proof/Machine/Dispatch.lean ====
section
/-! DEFINITION. Every instruction's meaning, one arm per constructor (30_encoding.md R84). -/

namespace Sys2Proof.Machine

def exec (i : Instr) (s : State) : Host.Outcome State Fault Refusal :=
  match i with
  | .clearScreen => Sys2Proof.Machine.execClearScreen s
  | .ret => Sys2Proof.Machine.execRet s
  | .jump nnn => Sys2Proof.Machine.execJump nnn s
  | .call nnn => Sys2Proof.Machine.execCall nnn s
  | .skipValueEq x kk => Sys2Proof.Machine.execSkipValueEq x kk s
  | .skipValueNe x kk => Sys2Proof.Machine.execSkipValueNe x kk s
  | .skipRegEq x y => Sys2Proof.Machine.execSkipRegEq x y s
  | .setByValue x kk => Sys2Proof.Machine.execSetByValue x kk s
  | .addToRegister x kk => Sys2Proof.Machine.execAddToRegister x kk s
  | .setReg x y => Sys2Proof.Machine.execSetReg x y s
  | .orReg x y => Sys2Proof.Machine.execOrReg x y s
  | .andReg x y => Sys2Proof.Machine.execAndReg x y s
  | .xorReg x y => Sys2Proof.Machine.execXorReg x y s
  | .addReg x y => Sys2Proof.Machine.execAddReg x y s
  | .subReg x y => Sys2Proof.Machine.execSubReg x y s
  | .shiftRight x y => Sys2Proof.Machine.execShiftRight x y s
  | .subRegReverse x y => Sys2Proof.Machine.execSubRegReverse x y s
  | .shiftLeft x y => Sys2Proof.Machine.execShiftLeft x y s
  | .skipRegNe x y => Sys2Proof.Machine.execSkipRegNe x y s
  | .setIRegister nnn => Sys2Proof.Machine.execSetIRegister nnn s
  | .jumpV0 nnn => Sys2Proof.Machine.execJumpV0 nnn s
  | .setRandom x kk => Sys2Proof.Machine.execSetRandom x kk s
  | .drawSprite x y n => Sys2Proof.Machine.execDrawSprite x y n s
  | .skipKeyPressed x => Sys2Proof.Machine.execSkipKeyPressed x s
  | .skipKeyNotPressed x => Sys2Proof.Machine.execSkipKeyNotPressed x s
  | .storeDelayTimer x => Sys2Proof.Machine.execStoreDelayTimer x s
  | .waitAndStoreKey x => Sys2Proof.Machine.execWaitAndStoreKey x s
  | .setDelayTimer x => Sys2Proof.Machine.execSetDelayTimer x s
  | .setSoundTimer x => Sys2Proof.Machine.execSetSoundTimer x s
  | .addToI x => Sys2Proof.Machine.execAddToI x s
  | .setIToChar x => Sys2Proof.Machine.execSetIToChar x s
  | .storeBCD x => Sys2Proof.Machine.execStoreBCD x s
  | .storeRegs x => Sys2Proof.Machine.execStoreRegs x s
  | .fillRegs x => Sys2Proof.Machine.execFillRegs x s

end Sys2Proof.Machine
end

