-- ==== Sys2Proof/Machine/Lifecycle.lean ====
section
/-! DEFINITION. The lifecycle controller: the host's commands (60_exceptions.md R206 to R209,
R226), Reset (70_reset_and_hazards.md R251, R252), and power-on (R250). -/

namespace Sys2Proof.Machine

/-- Run (R206): sets `RUN` and nothing else; a no-op while RUNNING. -/
def State.hostRun (s : State) : State := if s.run then s else { s with run := true }

/-- Stop (R207): clears `RUN` and cancels a pending key wait. -/
def State.hostStop (s : State) : State := { s with run := false, waitActive := false }

/-- What the host gets back (R226; log 19). -/
def State.answer (s : State) (r : HostReply) : State := { s with hostReply := some r }

/-- Reset (R208): first what Stop does (70_reset_and_hazards.md R251), then the values of R252.
Memory, `IR`, `WAIT.reg`, `PIX` and `BEEP` are unchanged and no port is used. -/
def State.hostReset (s : State) : State :=
  { s with
    run := false, waitActive := false
    pc := 0x200, i := 0, v := Vector.replicate 16 0, dt := 0, st := 0
    sp := Config.stackOrigin, haltCause := .none }

/-- LoadRom (R209) while STOPPED: too long a ROM fails and changes nothing. -/
def State.loadRom (rom : List Byte) (s : State) : State :=
  if rom.length > Config.romMax then s.answer .loadFailure
  else { s with mem := s.mem.writeBytes Config.romBase rom, hostReply := some .loaded }

/-- What inspection shows, as a number (R226). A pixel shows 1 when the plane lists it, so a row or
column outside the plane, which names no state of 10_state.md R35, shows 0: DESIGN CHOICE (log 28),
unsafe. -/
def State.shows (s : State) : Inspectable → Nat
  | .v x => (s.reg x).toNat
  | .i => s.i.toNat
  | .pc => s.pc.toNat
  | .sp => s.sp.toNat
  | .dt => s.dt.toNat
  | .st => s.st.toNat
  | .run => s.run.toNat
  | .haltCause => s.haltCause.code.toNat
  | .ir => s.ir.toNat
  | .waitActive => s.waitActive.toNat
  | .waitReg => s.waitReg.toNat
  | .mem a => (s.mem.byte a.toNat).toNat
  | .pix row col => (s.pix.lit (row, col)).toNat
  | .beep => s.beep.toNat

/-- One command of the host (R226). LoadRom and inspect are the host's duty to issue only while
STOPPED; issued while RUNNING they are undefined and refused (U1, D27; log 15). -/
def hostCommand (c : HostCommand) (s : State) : Move :=
  match c with
  | .loadRom rom => if s.run then .refuse .hostWhileRunning else .settled (s.loadRom rom)
  | .reset => .settled (s.hostReset.answer .resetDone)
  | .run => .settled s.hostRun
  | .stop => .settled (s.hostStop.answer .stopped)
  | .readStatus => .settled (s.answer (.status s.run s.haltCause))
  | .inspect what =>
    if s.run then .refuse .hostWhileRunning
    else .settled (s.answer (.value (s.shows what)))

/-- What power-on leaves unspecified (10_state.md R38; 93_implementation_defined.md U2, U3, U4),
and the parameter `FONT` (D18). `font` holds the 80 bytes from 0x000, `ram` the bytes from
0x050. -/
structure PowerOnChoice where
  font : List Byte
  ram : List Byte
  ir : Word
  waitReg : Reg
  pix : Plane
  beep : Bool
  deriving DecidableEq, Repr

/-- The choice `State.reset` makes (log 8 to 11). -/
def defaultChoice : PowerOnChoice where
  font := Config.font
  ram := []
  ir := 0
  waitReg := 0
  pix := []
  beep := false

/-- A state with what power-on leaves unspecified chosen: the font at 0x000, the bytes of `ram`
from 0x050. -/
def State.choose (s : State) (u : PowerOnChoice) : State :=
  { s with
    mem := (Memory.writeBytes [] 0 u.font).writeBytes Config.fontSize u.ram
    ir := u.ir, waitReg := u.waitReg, pix := u.pix, beep := u.beep }

/-- Power-on (70_reset_and_hazards.md R250): the font is written, the registers take the "after
power-on" column of 10_state.md R38, and no port is used. -/
def State.powerOn (u : PowerOnChoice) : State := State.reset.choose u

end Sys2Proof.Machine
end

