-- ==== Sys2Proof/Machine/Engine.lean ====
section
/-! DEFINITION. The step of the instruction engine up to the instruction's own meaning
(60_exceptions.md R205), the choice of the agent that moves (60_exceptions.md R214; log 2), and
how an instruction is placed where the next step fetches it. -/

namespace Sys2Proof.Machine

/-- A fetch can be made: `PC` is not above 0xFFE (20_memory.md R54). -/
def State.fetchable (s : State) : Bool := inRange s.pc.toNat 2

/-- The fetch (30_encoding.md R81): `IR` loaded big-endian, `PC` advanced by 2, before decode and
execute. -/
def State.fetched (s : State) : State :=
  { s with
    ir := wordOfBytes (s.mem.byte s.pc.toNat) (s.mem.byte (s.pc.toNat + 1))
    pc := s.pc + 2 }

/-- Fetch and decode, with the faults of each in their order (60_exceptions.md R204, R205): a fetch
AccessFault changes neither `IR` nor `PC`; a DecodeFailure comes after the fetch. -/
def State.fetchDecode (s : State) : Move :=
  if s.fetchable then
    match decodeWord s.fetched.ir with
    | .ok i => .execute i s.fetched
    | .reject _ => .settled (s.fetched.raise .decodeFailure)
  else .settled (s.raise .accessFault)

/-- What a step of the instruction engine does (60_exceptions.md R205): nothing while STOPPED, a
poll while a key wait is pending, otherwise one whole instruction. -/
def State.engineMove (s : State) : Move :=
  if s.run then
    if s.waitActive then .settled s.poll else s.fetchDecode
  else .settled s

/-- What an event does; an engine's event while STOPPED is not enabled and changes nothing
(60_exceptions.md R213; log 14). -/
def State.moveOn (s : State) : Event → Move
  | .instruction => s.engineMove
  | .tick => .settled s.tick
  | .host c => hostCommand c s

/-- The state with the given events to come. -/
def State.withAgenda (s : State) (es : List Event) : State := { s with agenda := es }

/-- The next move: the first event of the agenda; with none left, the instruction engine's
(log 2). -/
def State.nextMove (s : State) : Move :=
  match s.agenda with
  | [] => s.engineMove
  | e :: rest => (s.withAgenda rest).moveOn e

/-- An instruction's two bytes placed at `PC`, and the machine RUNNING with no pending wait and no
other event first, so that the next step fetches and runs it. Where no fetch could be made at
`PC`, it is placed at the ROM base (log 3). -/
def State.placeWord (s : State) (w : Word) : State :=
  let pc : Word := if s.fetchable then s.pc else 0x200
  { s with
    pc := pc, run := true, waitActive := false, agenda := []
    mem := s.mem.writeBytes pc.toNat [highByte w, lowByte w] }

end Sys2Proof.Machine
end

