-- ==== Sys2Proof/Machine/Step.lean ====
section
/-! DEFINITION. One step of the machine: the move of the agent whose turn it is (20_memory.md R61;
60_exceptions.md R205). -/

namespace Sys2Proof.Machine

/-- One step. -/
def step (s : State) : Host.Outcome State Fault Refusal :=
  match s.nextMove with
  | .settled t => .next t
  | .execute i t => exec i t
  | .refuse r => .refused r

/-- The state with an opcode-table instruction placed where the next step fetches it (log 3,
26). -/
def State.withFetchWord (s : State) (nbits w : Nat) : State := s.placeWord (tableWord nbits w)

end Sys2Proof.Machine
end

