-- ==== Sys2Proof/Safety.lean ====
section
/-! DEFINITION. The terms statements are made in: the parts of the state and what leaves them
unchanged, the machine's invariant, the pixels of a sprite, the executions of a fair schedule. -/

namespace Sys2Proof.Machine

/-- A part of the state: every piece of 10_state.md, register by register and byte by byte, and
the model's own fields. -/
inductive StatePart where
  | reg (x : Reg)
  | i | pc | sp | dt | st | run | haltCause | ir | waitActive | waitReg
  | mem (a : Nat)
  | pix | beep | queries | trace | agenda | hostReply
  deriving DecidableEq, Repr

/-- Two states agree on a part. A byte of memory is compared by reading it. -/
def AgreeOn (s t : State) : StatePart → Prop
  | .reg x => t.reg x = s.reg x
  | .i => t.i = s.i
  | .pc => t.pc = s.pc
  | .sp => t.sp = s.sp
  | .dt => t.dt = s.dt
  | .st => t.st = s.st
  | .run => t.run = s.run
  | .haltCause => t.haltCause = s.haltCause
  | .ir => t.ir = s.ir
  | .waitActive => t.waitActive = s.waitActive
  | .waitReg => t.waitReg = s.waitReg
  | .mem a => t.readByte a = s.readByte a
  | .pix => t.pix = s.pix
  | .beep => t.beep = s.beep
  | .queries => t.queries = s.queries
  | .trace => t.trace = s.trace
  | .agenda => t.agenda = s.agenda
  | .hostReply => t.hostReply = s.hostReply

/-- From `s` to `t` everything but the named parts is unchanged: a frame. -/
def Unchanged (s t : State) (changed : StatePart → Prop) : Prop :=
  ∀ p, ¬ changed p → AgreeOn s t p

/-- Fault entry seen from outside (60_exceptions.md R203): `HALT_CAUSE` holds the cause, `RUN` is
0, nothing else changed. -/
def Halted (s t : State) (c : HaltCause) : Prop :=
  t.haltCause = c ∧ t.run = false ∧ Unchanged s t (fun p => p = .haltCause ∨ p = .run)

/-- The call-stack invariant of 10_state.md R27: `SP` is even and within its window. -/
abbrev SpInWindow (s : State) : Prop :=
  0xFE0 ≤ s.sp.toNat ∧ s.sp.toNat ≤ 0x1000 ∧ s.sp.toNat % 2 = 0

/-- The invariant of the machine. -/
structure Invariant (s : State) : Prop where
  /-- Memory is in its canonical form. -/
  memory : s.mem.wf
  /-- The plane is in its canonical form and inside its bounds (10_state.md R35). -/
  plane : s.pix.wf Config.displayWidth Config.displayHeight
  /-- `SP` stays in its window (10_state.md R27). -/
  stack : SpInWindow s
  /-- A key wait is pending only while RUNNING (10_state.md R32, 60_exceptions.md R207). -/
  wait : s.waitActive = true → s.run = true
  /-- While the sound timer counts, the tone is on (44_keyboard_timers.md R175, R212). -/
  tone : s.st ≠ 0 → s.beep = true

/-- The instruction engine moves next. -/
def EngineTurn (s : State) : Prop := s.agenda = [] ∨ s.agenda.head? = some .instruction

/-- The next step executes the instruction. -/
def Executes (s : State) (i : Instr) : Prop := ∃ t, s.nextMove = .execute i t

/-- The coordinates, unreduced, at which the first `n` rows of a sprite have a set bit: rows
ascending, and columns ascending in a row (43_display_random.md R161, R163). `rowAt` gives the
byte of each row. -/
def spriteCoords (px py : Nat) (rowAt : Nat → Byte) (n : Nat) : List (Nat × Nat) :=
  (List.range n).flatMap fun r =>
    ((List.range 8).filter fun c => (rowAt r).getLsbD (7 - c)).map fun c => (px + c, py + r)

/-- The pixels those coordinates fall on in a plane of the given size (60_exceptions.md R221). -/
def spritePixels (width height : Nat) (coords : List (Nat × Nat)) : List Pixel :=
  coords.map fun p => (p.2 % height, p.1 % width)

/-- The arguments of a FlipPixel transaction. -/
def PortCall.flipArgs : PortCall → Option (Nat × Nat)
  | .flipPixel x y _ => some (x, y)
  | _ => none

/-- `n` ticks in a row. -/
def State.ticks : Nat → State → State
  | 0, s => s
  | n + 1, s => (State.ticks n s).tick

/-- The events of an endless run, one for each step (60_exceptions.md R214). -/
abbrev Schedule := Nat → Event

/-- Weak fairness of the two engines (60_exceptions.md R214): each of them gets a step after any
step. -/
def Schedule.Fair (σ : Schedule) : Prop :=
  ∀ n, (∃ m, n ≤ m ∧ σ m = .instruction) ∧ (∃ m, n ≤ m ∧ σ m = .tick)

/-- The host gives no command. -/
def Schedule.NoHost (σ : Schedule) : Prop := ∀ n c, σ n ≠ .host c

/-- The state with the event, and no other, on its agenda. -/
def State.facing (s : State) (e : Event) : State := s.withAgenda [e]

/-- The states of an endless run under a schedule. -/
def Follows (σ : Schedule) (f : Nat → State) : Prop :=
  ∀ n, step ((f n).facing (σ n)) = .next (f (n + 1))

end Sys2Proof.Machine
end

