-- ==== Sys2Proof/Certificates/Slice0/Obligations.lean ====
section
/-! DEFINITION. The statements for the provers. Each docstring names the rules of spec/ it
formalises. `s` is always the state in which a meaning starts, after the fetch (30_encoding.md
R81), unless the statement speaks of `step`. -/

open Sys2Proof Sys2Proof.Machine

/-! ### Decoding and encoding -/

/-- A few words of 95_test_vectors.md B1, written out. -/
def Obligations.DecodeSamples : Prop :=
  decodeWord 0x00E0 = .ok .clearScreen ∧ decodeWord 0x2300 = .ok (.call 0x300) ∧
  decodeWord 0x3A42 = .ok (.skipValueEq 0xA 0x42) ∧ decodeWord 0x8127 = .ok (.subRegReverse 1 2) ∧
  decodeWord 0xA2F0 = .ok (.setIRegister 0x2F0) ∧ decodeWord 0xD125 = .ok (.drawSprite 1 2 5) ∧
  decodeWord 0xE5A1 = .ok (.skipKeyNotPressed 5) ∧ decodeWord 0xF255 = .ok (.storeRegs 2) ∧
  decodeWord 0x01E0 = .reject .family0 ∧ decodeWord 0x8128 = .reject .family8

/-- Decoding the word, or the two bytes, of a well-formed instruction gives it back
(30_encoding.md R80, R83, R84). -/
def Obligations.DecodeEncode : Prop :=
  ∀ i : Instr, i.wellFormed = true → decodeWord (encode i) = .ok i ∧
    ∀ rest, decode (encodeBytes i ++ rest) = (.ok i, rest)

/-- A word that decodes to an instruction is that instruction's word: no two words mean the same
(30_encoding.md R84). -/
def Obligations.EncodeDecode : Prop :=
  ∀ (w : Word) (i : Instr), decodeWord w = .ok i → encode i = w

/-- The decode procedure and the opcode table select the same instruction; the table has 34 rows
and no word matches two of them (30_encoding.md R84, R85). -/
def Obligations.TableDecidesDecoding : Prop :=
  opcodeTable.length = 34 ∧
  (∀ (w : Word) (i : Instr), decodeWord w = .ok i →
    ∃ r ∈ opcodeTable, r.selects w = true ∧ r.mnemonic = i.mnemonic) ∧
  (∀ (w : Word), ∀ r ∈ opcodeTable, r.selects w = true →
    ∃ i, decodeWord w = .ok i ∧ i.mnemonic = r.mnemonic) ∧
  (∀ (w : Word), ∀ r ∈ opcodeTable, ∀ r' ∈ opcodeTable,
    r.selects w = true → r'.selects w = true → r = r')

/-- The failing words, family by family (30_encoding.md R87). -/
def Obligations.FailingWords : Prop :=
  ∀ w : Word, (∃ r, decodeWord w = .reject r) ↔
    (fieldOp w = 0x0 ∧ w ≠ 0x00E0 ∧ w ≠ 0x00EE) ∨
    (fieldOp w = 0x5 ∧ fieldN w ≠ 0) ∨
    (fieldOp w = 0x8 ∧ fieldN w ∈ [0x8#4, 0x9#4, 0xA#4, 0xB#4, 0xC#4, 0xD#4, 0xF#4]) ∨
    (fieldOp w = 0x9 ∧ fieldN w ≠ 0) ∨
    (fieldOp w = 0xE ∧ fieldKK w ≠ 0x9E ∧ fieldKK w ≠ 0xA1) ∨
    (fieldOp w = 0xF ∧ fieldKK w ∉
      [0x07#8, 0x0A#8, 0x15#8, 0x18#8, 0x1E#8, 0x29#8, 0x33#8, 0x55#8, 0x65#8])

/-! ### The step of the instruction engine -/

/-- A step runs the decoded instruction: while RUNNING with no key wait, on the instruction
engine's turn, when the two bytes at `PC` decode to a well-formed `i`, the step is `exec i` of the
state whose `IR` holds the word, whose `PC` is advanced by 2, and whose agenda has lost its first
event (60_exceptions.md R205; 30_encoding.md R81; the agenda is the model's own, log 2). -/
def Obligations.StepRunsDecoded : Prop :=
  ∀ (s : State) (i : Instr) (hi lo : Byte), s.run = true → s.waitActive = false → EngineTurn s →
    s.readByte s.pc.toNat = some hi → s.readByte (s.pc.toNat + 1) = some lo →
    decode [hi, lo] = (.ok i, []) → i.wellFormed = true →
    step s = exec i { s with
      agenda := s.agenda.tail, ir := wordOfBytes hi lo, pc := s.pc + 2 }

/-- A fetch with `PC` above 0xFFE raises AccessFault; `IR` and `PC` are unchanged
(20_memory.md R54). -/
def Obligations.FetchFault : Prop :=
  ∀ s : State, s.run = true → s.waitActive = false → EngineTurn s → 0xFFE < s.pc.toNat →
    ∃ t, step s = .next t ∧ Halted (s.withAgenda s.agenda.tail) t .accessFault

/-- A word that decodes to nothing halts the engine: `HALT_CAUSE` is DecodeFailure, `RUN` is 0,
the failing word is in `IR` and at `PC - 2` (60_exceptions.md R202). -/
def Obligations.DecodeFailureHalts : Prop :=
  ∀ (s : State) (r : DecodeReject) (hi lo : Byte), s.run = true → s.waitActive = false →
    EngineTurn s → s.readByte s.pc.toNat = some hi → s.readByte (s.pc.toNat + 1) = some lo →
    decodeWord (wordOfBytes hi lo) = .reject r →
    ∃ t, step s = .next t ∧ t.haltCause = .decodeFailure ∧ t.run = false ∧
      t.ir = wordOfBytes hi lo ∧ t.pc.toNat = s.pc.toNat + 2 ∧
      Unchanged s t fun p =>
        p = .haltCause ∨ p = .run ∨ p = .ir ∨ p = .pc ∨ p = .agenda

/-- A fault is precise, and each instruction raises only its own: an instruction that leaves the
machine STOPPED changed nothing but `HALT_CAUSE` and `RUN`; Call and Return raise StackFault,
StoreBCD, StoreRegs, FillRegs and DrawSprite AccessFault, the key skips KeyFault, no other
instruction any (60_exceptions.md R200, R203, R204). -/
def Obligations.FaultsArePrecise : Prop :=
  ∀ (i : Instr) (s t : State), SpInWindow s → s.run = true → exec i s = .next t → t.run = false →
    (Halted s t .stackFault ∧ (i = .ret ∨ ∃ nnn, i = .call nnn)) ∨
    (Halted s t .accessFault ∧ ((∃ x, i = .storeBCD x) ∨ (∃ x, i = .storeRegs x) ∨
      (∃ x, i = .fillRegs x) ∨ ∃ x y n, i = .drawSprite x y n)) ∨
    (Halted s t .keyFault ∧ ((∃ x, i = .skipKeyPressed x) ∨ ∃ x, i = .skipKeyNotPressed x))

/-- Every step answers a next state, but for the one case the spec calls undefined: LoadRom or
inspect issued while RUNNING is refused (93_implementation_defined.md U1; 60_exceptions.md R226;
the refusal is log 15). -/
def Obligations.OnlyHostMisuseIsRefused : Prop :=
  ∀ s : State,
    ((∃ t, step s = .next t) ∨ step s = .refused .hostWhileRunning) ∧
    (step s = .refused .hostWhileRunning ↔ s.run = true ∧
      ((∃ rom, s.agenda.head? = some (.host (.loadRom rom))) ∨
        ∃ what, s.agenda.head? = some (.host (.inspect what))))

/-! ### Control transfer -/

/-- Return (40_control_flow.md R100). -/
def Obligations.Return : Prop :=
  (∀ w : Word, w &&& 0xFFFF = 0x00EE → decodeWord w = .ok .ret) ∧
  (∀ s : State, s.sp = 0x1000 → ∃ t, exec .ret s = .next t ∧ Halted s t .stackFault) ∧
  (∀ s : State, SpInWindow s → s.sp ≠ 0x1000 → ∃ t hi lo, exec .ret s = .next t ∧
    s.readByte s.sp.toNat = some hi ∧ s.readByte (s.sp.toNat + 1) = some lo ∧
    t.pc.toNat = 256 * hi.toNat + lo.toNat ∧ t.sp.toNat = s.sp.toNat + 2 ∧
    Unchanged s t fun p => p = .pc ∨ p = .sp)

/-- Jump (40_control_flow.md R101). -/
def Obligations.Jump : Prop :=
  (∀ w : Word, w &&& 0xF000 = 0x1000 → decodeWord w = .ok (.jump (fieldNNN w))) ∧
  ∀ (s : State) (nnn : Addr), ∃ t, exec (.jump nnn) s = .next t ∧
    t.pc.toNat = nnn.toNat ∧ Unchanged s t fun p => p = .pc

/-- JumpV0 (40_control_flow.md R102). -/
def Obligations.JumpV0 : Prop :=
  (∀ w : Word, w &&& 0xF000 = 0xB000 → decodeWord w = .ok (.jumpV0 (fieldNNN w))) ∧
  ∀ (s : State) (nnn : Addr), ∃ t, exec (.jumpV0 nnn) s = .next t ∧
    t.pc.toNat = nnn.toNat + (s.reg 0).toNat ∧ Unchanged s t fun p => p = .pc

/-- Call (40_control_flow.md R103): the word pushed is the address after the Call. -/
def Obligations.Call : Prop :=
  (∀ w : Word, w &&& 0xF000 = 0x2000 → decodeWord w = .ok (.call (fieldNNN w))) ∧
  (∀ (s : State) (nnn : Addr), s.sp = 0xFE0 →
    ∃ t, exec (.call nnn) s = .next t ∧ Halted s t .stackFault) ∧
  (∀ (s : State) (nnn : Addr), SpInWindow s → s.sp ≠ 0xFE0 → ∃ t, exec (.call nnn) s = .next t ∧
    t.sp.toNat = s.sp.toNat - 2 ∧
    t.readByte (s.sp.toNat - 2) = some (BitVec.ofNat 8 (s.pc.toNat / 256)) ∧
    t.readByte (s.sp.toNat - 1) = some (BitVec.ofNat 8 (s.pc.toNat % 256)) ∧
    t.pc.toNat = nnn.toNat ∧
    Unchanged s t fun p => p = .pc ∨ p = .sp ∨
      p = .mem (s.sp - 2).toNat ∨ p = .mem ((s.sp - 2).toNat + 1))

/-- SkipValueEq and SkipValueNe (40_control_flow.md R104, R105). -/
def Obligations.SkipValue : Prop :=
  (∀ w : Word, w &&& 0xF000 = 0x3000 →
    decodeWord w = .ok (.skipValueEq (fieldX w) (fieldKK w))) ∧
  (∀ w : Word, w &&& 0xF000 = 0x4000 →
    decodeWord w = .ok (.skipValueNe (fieldX w) (fieldKK w))) ∧
  ∀ (s : State) (x : Reg) (kk : Byte),
    (∃ t, exec (.skipValueEq x kk) s = .next t ∧
      t.pc = (if s.reg x = kk then s.pc + 2 else s.pc) ∧ Unchanged s t fun p => p = .pc) ∧
    (∃ t, exec (.skipValueNe x kk) s = .next t ∧
      t.pc = (if s.reg x = kk then s.pc else s.pc + 2) ∧ Unchanged s t fun p => p = .pc)

/-- SkipRegEq and SkipRegNe (40_control_flow.md R106, R107). -/
def Obligations.SkipReg : Prop :=
  (∀ w : Word, w &&& 0xF00F = 0x5000 →
    decodeWord w = .ok (.skipRegEq (fieldX w) (fieldY w))) ∧
  (∀ w : Word, w &&& 0xF00F = 0x9000 →
    decodeWord w = .ok (.skipRegNe (fieldX w) (fieldY w))) ∧
  ∀ (s : State) (x y : Reg),
    (∃ t, exec (.skipRegEq x y) s = .next t ∧
      t.pc = (if s.reg x = s.reg y then s.pc + 2 else s.pc) ∧ Unchanged s t fun p => p = .pc) ∧
    (∃ t, exec (.skipRegNe x y) s = .next t ∧
      t.pc = (if s.reg x = s.reg y then s.pc else s.pc + 2) ∧ Unchanged s t fun p => p = .pc)

/-- Call followed by Return comes back to the instruction after the Call, with the stack pointer it
had (90_conflicts.md C6; 95_test_vectors.md A4). -/
def Obligations.CallThenReturn : Prop :=
  ∀ (s : State) (nnn : Addr), SpInWindow s → s.sp ≠ 0xFE0 →
    ∃ t r, exec (.call nnn) s = .next t ∧ exec .ret t.fetched = .next r ∧
      r.pc = s.pc ∧ r.sp = s.sp

/-! ### Register and ALU -/

/-- SetByValue (41_register_alu.md R120). -/
def Obligations.SetByValue : Prop :=
  (∀ w : Word, w &&& 0xF000 = 0x6000 →
    decodeWord w = .ok (.setByValue (fieldX w) (fieldKK w))) ∧
  ∀ (s : State) (x : Reg) (kk : Byte), ∃ t, exec (.setByValue x kk) s = .next t ∧
    t.reg x = kk ∧ Unchanged s t fun p => p = .reg x

/-- AddToRegister (41_register_alu.md R121): wraps, writes no flag. -/
def Obligations.AddToRegister : Prop :=
  (∀ w : Word, w &&& 0xF000 = 0x7000 →
    decodeWord w = .ok (.addToRegister (fieldX w) (fieldKK w))) ∧
  ∀ (s : State) (x : Reg) (kk : Byte), ∃ t, exec (.addToRegister x kk) s = .next t ∧
    (t.reg x).toNat = ((s.reg x).toNat + kk.toNat) % 256 ∧ Unchanged s t fun p => p = .reg x

/-- SetReg (41_register_alu.md R122). -/
def Obligations.SetReg : Prop :=
  (∀ w : Word, w &&& 0xF00F = 0x8000 → decodeWord w = .ok (.setReg (fieldX w) (fieldY w))) ∧
  ∀ (s : State) (x y : Reg), ∃ t, exec (.setReg x y) s = .next t ∧
    t.reg x = s.reg y ∧ Unchanged s t fun p => p = .reg x

/-- Or, And, Xor, bit by bit; they write no flag (41_register_alu.md R123, R124, R125). -/
def Obligations.BitwiseLogic : Prop :=
  (∀ w : Word, w &&& 0xF00F = 0x8001 → decodeWord w = .ok (.orReg (fieldX w) (fieldY w))) ∧
  (∀ w : Word, w &&& 0xF00F = 0x8002 → decodeWord w = .ok (.andReg (fieldX w) (fieldY w))) ∧
  (∀ w : Word, w &&& 0xF00F = 0x8003 → decodeWord w = .ok (.xorReg (fieldX w) (fieldY w))) ∧
  ∀ (s : State) (x y : Reg),
    (∃ t, exec (.orReg x y) s = .next t ∧
      (∀ k, (t.reg x).getLsbD k = ((s.reg x).getLsbD k || (s.reg y).getLsbD k)) ∧
      Unchanged s t fun p => p = .reg x) ∧
    (∃ t, exec (.andReg x y) s = .next t ∧
      (∀ k, (t.reg x).getLsbD k = ((s.reg x).getLsbD k && (s.reg y).getLsbD k)) ∧
      Unchanged s t fun p => p = .reg x) ∧
    (∃ t, exec (.xorReg x y) s = .next t ∧
      (∀ k, (t.reg x).getLsbD k = ((s.reg x).getLsbD k != (s.reg y).getLsbD k)) ∧
      Unchanged s t fun p => p = .reg x)

/-- AddReg (41_register_alu.md R126): `VF` is the carry, also where it is the destination. -/
def Obligations.AddReg : Prop :=
  (∀ w : Word, w &&& 0xF00F = 0x8004 → decodeWord w = .ok (.addReg (fieldX w) (fieldY w))) ∧
  ∀ (s : State) (x y : Reg), ∃ t, exec (.addReg x y) s = .next t ∧
    (x ≠ vf → (t.reg x).toNat = ((s.reg x).toNat + (s.reg y).toNat) % 256) ∧
    t.reg vf = (if (s.reg x).toNat + (s.reg y).toNat > 255 then 1 else 0) ∧
    Unchanged s t fun p => p = .reg x ∨ p = .reg vf

/-- SubReg (41_register_alu.md R127): `VF` = 1 is "no borrow". -/
def Obligations.SubReg : Prop :=
  (∀ w : Word, w &&& 0xF00F = 0x8005 → decodeWord w = .ok (.subReg (fieldX w) (fieldY w))) ∧
  ∀ (s : State) (x y : Reg), ∃ t, exec (.subReg x y) s = .next t ∧
    (x ≠ vf → (t.reg x).toNat = ((s.reg x).toNat + 256 - (s.reg y).toNat) % 256) ∧
    t.reg vf = (if (s.reg x).toNat ≥ (s.reg y).toNat then 1 else 0) ∧
    Unchanged s t fun p => p = .reg x ∨ p = .reg vf

/-- SubRegReverse (41_register_alu.md R129): the same polarity, the other operand order. -/
def Obligations.SubRegReverse : Prop :=
  (∀ w : Word, w &&& 0xF00F = 0x8007 →
    decodeWord w = .ok (.subRegReverse (fieldX w) (fieldY w))) ∧
  ∀ (s : State) (x y : Reg), ∃ t, exec (.subRegReverse x y) s = .next t ∧
    (x ≠ vf → (t.reg x).toNat = ((s.reg y).toNat + 256 - (s.reg x).toNat) % 256) ∧
    t.reg vf = (if (s.reg y).toNat ≥ (s.reg x).toNat then 1 else 0) ∧
    Unchanged s t fun p => p = .reg x ∨ p = .reg vf

/-- ShiftRight (41_register_alu.md R128), under whichever setting `SHIFT_SOURCE` has. -/
def Obligations.ShiftRight : Prop :=
  (∀ w : Word, w &&& 0xF00F = 0x8006 → decodeWord w = .ok (.shiftRight (fieldX w) (fieldY w))) ∧
  ∀ (s : State) (x y : Reg), ∃ t a, exec (.shiftRight x y) s = .next t ∧
    (Config.shiftSource = .vx → a = s.reg x) ∧ (Config.shiftSource = .vy → a = s.reg y) ∧
    (x ≠ vf → (t.reg x).toNat = a.toNat / 2) ∧
    (t.reg vf).toNat = a.toNat % 2 ∧
    Unchanged s t fun p => p = .reg x ∨ p = .reg vf

/-- ShiftLeft (41_register_alu.md R130), under whichever setting `SHIFT_SOURCE` has. -/
def Obligations.ShiftLeft : Prop :=
  (∀ w : Word, w &&& 0xF00F = 0x800E → decodeWord w = .ok (.shiftLeft (fieldX w) (fieldY w))) ∧
  ∀ (s : State) (x y : Reg), ∃ t a, exec (.shiftLeft x y) s = .next t ∧
    (Config.shiftSource = .vx → a = s.reg x) ∧ (Config.shiftSource = .vy → a = s.reg y) ∧
    (x ≠ vf → (t.reg x).toNat = 2 * a.toNat % 256) ∧
    (t.reg vf).toNat = a.toNat / 128 ∧
    Unchanged s t fun p => p = .reg x ∨ p = .reg vf

/-! ### Index register and memory -/

/-- SetIRegister (42_index_memory.md R140). -/
def Obligations.SetIRegister : Prop :=
  (∀ w : Word, w &&& 0xF000 = 0xA000 → decodeWord w = .ok (.setIRegister (fieldNNN w))) ∧
  ∀ (s : State) (nnn : Addr), ∃ t, exec (.setIRegister nnn) s = .next t ∧
    t.i.toNat = nnn.toNat ∧ Unchanged s t fun p => p = .i

/-- AddToI (42_index_memory.md R141): wraps at 16 bits, writes no flag. -/
def Obligations.AddToI : Prop :=
  (∀ w : Word, w &&& 0xF0FF = 0xF01E → decodeWord w = .ok (.addToI (fieldX w))) ∧
  ∀ (s : State) (x : Reg), ∃ t, exec (.addToI x) s = .next t ∧
    t.i.toNat = (s.i.toNat + (s.reg x).toNat) % 65536 ∧ Unchanged s t fun p => p = .i

/-- SetIToChar (42_index_memory.md R142): the whole register value times 5. -/
def Obligations.SetIToChar : Prop :=
  (∀ w : Word, w &&& 0xF0FF = 0xF029 → decodeWord w = .ok (.setIToChar (fieldX w))) ∧
  ∀ (s : State) (x : Reg), ∃ t, exec (.setIToChar x) s = .next t ∧
    t.i.toNat = 5 * (s.reg x).toNat ∧ Unchanged s t fun p => p = .i

/-- StoreBCD (42_index_memory.md R143). -/
def Obligations.StoreBCD : Prop :=
  (∀ w : Word, w &&& 0xF0FF = 0xF033 → decodeWord w = .ok (.storeBCD (fieldX w))) ∧
  (∀ (s : State) (x : Reg), s.i.toNat + 2 ≤ 0xFFF → ∃ t, exec (.storeBCD x) s = .next t ∧
    t.readByte s.i.toNat = some (BitVec.ofNat 8 ((s.reg x).toNat / 100)) ∧
    t.readByte (s.i.toNat + 1) = some (BitVec.ofNat 8 ((s.reg x).toNat / 10 % 10)) ∧
    t.readByte (s.i.toNat + 2) = some (BitVec.ofNat 8 ((s.reg x).toNat % 10)) ∧
    Unchanged s t fun p => ∃ k, k < 3 ∧ p = .mem (s.i.toNat + k)) ∧
  (∀ (s : State) (x : Reg), s.i.toNat + 2 > 0xFFF →
    ∃ t, exec (.storeBCD x) s = .next t ∧ Halted s t .accessFault)

/-- StoreRegs (42_index_memory.md R144): `x + 1` bytes, `I` unchanged. -/
def Obligations.StoreRegs : Prop :=
  (∀ w : Word, w &&& 0xF0FF = 0xF055 → decodeWord w = .ok (.storeRegs (fieldX w))) ∧
  (∀ (s : State) (x : Reg), s.i.toNat + x.toNat ≤ 0xFFF →
    ∃ t, exec (.storeRegs x) s = .next t ∧
      (∀ k : Reg, k.toNat ≤ x.toNat → t.readByte (s.i.toNat + k.toNat) = some (s.reg k)) ∧
      Unchanged s t fun p => ∃ k, k ≤ x.toNat ∧ p = .mem (s.i.toNat + k)) ∧
  (∀ (s : State) (x : Reg), s.i.toNat + x.toNat > 0xFFF →
    ∃ t, exec (.storeRegs x) s = .next t ∧ Halted s t .accessFault)

/-- FillRegs (42_index_memory.md R145): registers above `V[x]` and `I` unchanged. -/
def Obligations.FillRegs : Prop :=
  (∀ w : Word, w &&& 0xF0FF = 0xF065 → decodeWord w = .ok (.fillRegs (fieldX w))) ∧
  (∀ (s : State) (x : Reg), s.i.toNat + x.toNat ≤ 0xFFF →
    ∃ t, exec (.fillRegs x) s = .next t ∧
      (∀ k : Reg, k.toNat ≤ x.toNat → s.readByte (s.i.toNat + k.toNat) = some (t.reg k)) ∧
      Unchanged s t fun p => ∃ k : Reg, k.toNat ≤ x.toNat ∧ p = .reg k) ∧
  (∀ (s : State) (x : Reg), s.i.toNat + x.toNat > 0xFFF →
    ∃ t, exec (.fillRegs x) s = .next t ∧ Halted s t .accessFault)

/-- What StoreRegs, StoreBCD and Call store is what the next fetch reads, wherever the stored bytes
and the two bytes fetched overlap; elsewhere the fetch reads the old bytes (20_memory.md R64;
70_reset_and_hazards.md R256). -/
def Obligations.StoreSeenByNextFetch : Prop :=
  (∀ (s : State) (x : Reg), s.i.toNat + x.toNat ≤ 0xFFF → s.pc.toNat ≤ 0xFFE →
    let seen := fun a => if s.i.toNat ≤ a ∧ a ≤ s.i.toNat + x.toNat
      then s.reg (BitVec.ofNat 4 (a - s.i.toNat)) else s.mem.byte a
    ∃ t, exec (.storeRegs x) s = .next t ∧
      t.fetched.ir = wordOfBytes (seen s.pc.toNat) (seen (s.pc.toNat + 1))) ∧
  (∀ (s : State) (x : Reg), s.i.toNat + 2 ≤ 0xFFF → s.pc.toNat ≤ 0xFFE →
    let seen := fun a =>
      if a = s.i.toNat then BitVec.ofNat 8 ((s.reg x).toNat / 100)
      else if a = s.i.toNat + 1 then BitVec.ofNat 8 ((s.reg x).toNat / 10 % 10)
      else if a = s.i.toNat + 2 then BitVec.ofNat 8 ((s.reg x).toNat % 10)
      else s.mem.byte a
    ∃ t, exec (.storeBCD x) s = .next t ∧
      t.fetched.ir = wordOfBytes (seen s.pc.toNat) (seen (s.pc.toNat + 1))) ∧
  (∀ (s : State) (nnn : Addr), SpInWindow s → s.sp ≠ 0xFE0 → nnn.toNat ≤ 0xFFE →
    let seen := fun a =>
      if a = s.sp.toNat - 2 then BitVec.ofNat 8 (s.pc.toNat / 256)
      else if a = s.sp.toNat - 1 then BitVec.ofNat 8 (s.pc.toNat % 256)
      else s.mem.byte a
    ∃ t, exec (.call nnn) s = .next t ∧
      t.fetched.ir = wordOfBytes (seen nnn.toNat) (seen (nnn.toNat + 1)))

/-! ### Display and random -/

/-- ClearScreen (43_display_random.md R160). -/
def Obligations.ClearScreen : Prop :=
  (∀ w : Word, w &&& 0xFFFF = 0x00E0 → decodeWord w = .ok .clearScreen) ∧
  ∀ s : State, ∃ t u, exec .clearScreen s = .next t ∧ exec .clearScreen t = .next u ∧
    (∀ q, t.pix.lit q = false) ∧ t.trace = .displayClear :: s.trace ∧
    (Unchanged s t fun p => p = .pix ∨ p = .trace) ∧ (Unchanged t u fun p => p = .trace)

/-- DrawSprite (43_display_random.md R161): FlipPixel is issued at the unreduced coordinates of the
sprite's set bits, row by row; a pixel ends inverted once for each of them that falls on it; `VF`
tells whether one of them found its pixel set. Stated for the display's size, whatever it is. -/
def Obligations.DrawSprite : Prop :=
  (∀ w : Word, w &&& 0xF000 = 0xD000 →
    decodeWord w = .ok (.drawSprite (fieldX w) (fieldY w) (fieldN w))) ∧
  (∀ (s : State) (x y : Reg) (n : RowCount), n = 0 ∨ s.i.toNat + n.toNat - 1 ≤ 0xFFF →
    ∃ t, exec (.drawSprite x y n) s = .next t ∧
      (let coords := spriteCoords (s.reg x).toNat (s.reg y).toNat
          (fun r => s.mem.byte (s.i.toNat + r)) n.toNat
       let hits := spritePixels Config.displayWidth Config.displayHeight coords
       (∃ calls, t.trace = calls ++ s.trace ∧
         calls.reverse.map PortCall.flipArgs = coords.map some) ∧
       (∀ q, t.pix.lit q = (s.pix.lit q ^^ decide (hits.count q % 2 = 1))) ∧
       t.reg vf = (if ∃ k, ∃ h : k < hits.length,
           (s.pix.lit hits[k] ^^ decide ((hits.take k).count hits[k] % 2 = 1)) = true
         then 1 else 0)) ∧
      Unchanged s t fun p => p = .reg vf ∨ p = .pix ∨ p = .trace) ∧
  (∀ (s : State) (x y : Reg) (n : RowCount), n ≠ 0 → s.i.toNat + n.toNat - 1 > 0xFFF →
    ∃ t, exec (.drawSprite x y n) s = .next t ∧ Halted s t .accessFault)

/-- On a plane at least 8 wide and as high as the sprite, no two bits of a sprite meet: `VF` is 1
exactly when a set bit falls on a pixel that was set, and each pixel is the exclusive or of what it
was and the sprite (43_display_random.md R161, R163). -/
def Obligations.SpriteIsExclusiveOr : Prop :=
  ∀ (s : State) (width height : Nat) (x y : Reg) (n : RowCount),
    8 ≤ width → 0 < height → n.toNat ≤ height →
    let t := s.drawSpriteWith width height x y n
    let hits := spritePixels width height (spriteCoords (s.reg x).toNat (s.reg y).toNat
      (fun r => s.mem.byte (s.i.toNat + r)) n.toNat)
    (∀ q, t.pix.lit q = (s.pix.lit q ^^ decide (q ∈ hits))) ∧
    t.reg vf = (if ∃ q, q ∈ hits ∧ s.pix.lit q = true then 1 else 0)

/-- SetRandom (43_display_random.md R162), for every draw. That the draw of `exec` is the free value
of the model's query counter, and that each query advances the counter, is the model's choice
(log 4). -/
def Obligations.SetRandom : Prop :=
  (∀ w : Word, w &&& 0xF000 = 0xC000 → decodeWord w = .ok (.setRandom (fieldX w) (fieldKK w))) ∧
  (∀ (s : State) (x : Reg) (kk rnd : Byte),
    (∀ k, ((s.setRandomWith rnd x kk).reg x).getLsbD k = (rnd.getLsbD k && kk.getLsbD k)) ∧
    (s.setRandomWith rnd x kk).trace = .randomByte rnd :: s.trace ∧
    (s.setRandomWith rnd x kk).queries = s.queries + 1 ∧
    Unchanged s (s.setRandomWith rnd x kk) fun p =>
      p = .reg x ∨ p = .queries ∨ p = .trace) ∧
  (∀ (s : State) (x : Reg) (kk : Byte),
    exec (.setRandom x kk) s = .next (s.setRandomWith (Config.randomByte s.queries) x kk))

/-! ### Keyboard and timers -/

/-- SkipKeyPressed and SkipKeyNotPressed (44_keyboard_timers.md R170, R171), for every answer of the
Keyboard: for a key 0 to 15 one query of that key, whose answer `down` decides the skip; for any
other value KeyFault, before any query. That the answer in `exec` is the free value of the model's
query counter is the model's choice (log 4); each instruction is tied to its own answer. -/
def Obligations.SkipKey : Prop :=
  (∀ w : Word, w &&& 0xF0FF = 0xE09E → decodeWord w = .ok (.skipKeyPressed (fieldX w))) ∧
  (∀ w : Word, w &&& 0xF0FF = 0xE0A1 → decodeWord w = .ok (.skipKeyNotPressed (fieldX w))) ∧
  (∀ (s : State) (key : BitVec 4) (down : Bool),
    let t := s.skipKeyPressedWith key down
    t.trace = .isKeyDown key down :: s.trace ∧ t.queries = s.queries + 1 ∧
    t.pc = (if down = true then s.pc + 2 else s.pc) ∧
    Unchanged s t fun p => p = .pc ∨ p = .queries ∨ p = .trace) ∧
  (∀ (s : State) (key : BitVec 4) (down : Bool),
    let t := s.skipKeyNotPressedWith key down
    t.trace = .isKeyDown key down :: s.trace ∧ t.queries = s.queries + 1 ∧
    t.pc = (if down = true then s.pc else s.pc + 2) ∧
    Unchanged s t fun p => p = .pc ∨ p = .queries ∨ p = .trace) ∧
  (∀ (s : State) (x : Reg), (s.reg x).toNat ≤ 15 → ∃ key, key.toNat = (s.reg x).toNat ∧
    exec (.skipKeyPressed x) s =
      .next (s.skipKeyPressedWith key (Config.keyDown s.queries key))) ∧
  (∀ (s : State) (x : Reg), (s.reg x).toNat ≤ 15 → ∃ key, key.toNat = (s.reg x).toNat ∧
    exec (.skipKeyNotPressed x) s =
      .next (s.skipKeyNotPressedWith key (Config.keyDown s.queries key))) ∧
  (∀ (s : State) (x : Reg), (s.reg x).toNat > 15 →
    (∃ t, exec (.skipKeyPressed x) s = .next t ∧ Halted s t .keyFault) ∧
    ∃ t, exec (.skipKeyNotPressed x) s = .next t ∧ Halted s t .keyFault)

/-- StoreDelayTimer and SetDelayTimer (44_keyboard_timers.md R172, R174). -/
def Obligations.DelayTimer : Prop :=
  (∀ w : Word, w &&& 0xF0FF = 0xF007 → decodeWord w = .ok (.storeDelayTimer (fieldX w))) ∧
  (∀ w : Word, w &&& 0xF0FF = 0xF015 → decodeWord w = .ok (.setDelayTimer (fieldX w))) ∧
  ∀ (s : State) (x : Reg),
    (∃ t, exec (.storeDelayTimer x) s = .next t ∧ t.reg x = s.dt ∧
      Unchanged s t fun p => p = .reg x) ∧
    (∃ t, exec (.setDelayTimer x) s = .next t ∧ t.dt = s.reg x ∧
      Unchanged s t fun p => p = .dt)

/-- WaitAndStoreKey (44_keyboard_timers.md R173): the step that fetches it, each poll for every
reply, and its cancellation by Stop and by Reset. -/
def Obligations.WaitAndStoreKey : Prop :=
  (∀ w : Word, w &&& 0xF0FF = 0xF00A → decodeWord w = .ok (.waitAndStoreKey (fieldX w))) ∧
  (∀ (s : State) (x : Reg), ∃ t, exec (.waitAndStoreKey x) s = .next t ∧
    t.waitReg = x ∧ t.waitActive = true ∧
    Unchanged s t fun p => p = .waitReg ∨ p = .waitActive) ∧
  (∀ (s : State) (k : BitVec 5), k.toNat ≤ 15 →
    ((s.pollWith k).reg s.waitReg).toNat = k.toNat ∧ (s.pollWith k).waitActive = false ∧
    Unchanged s (s.pollWith k) fun p =>
      p = .reg s.waitReg ∨ p = .waitActive ∨ p = .queries ∨ p = .trace) ∧
  (∀ (s : State) (k : BitVec 5), 15 < k.toNat →
    Unchanged s (s.pollWith k) fun p => p = .queries ∨ p = .trace) ∧
  (∀ s : State, s.hostStop.waitActive = false ∧ s.hostReset.waitActive = false ∧
    Unchanged s s.hostStop fun p => p = .run ∨ p = .waitActive)

/-- A step during a key wait is one poll, and fetches nothing (44_keyboard_timers.md R177). -/
def Obligations.PollStep : Prop :=
  ∀ s : State, s.run = true → s.waitActive = true → EngineTurn s →
    ∃ t k, step s = .next t ∧ t.trace = .waitForKey k :: s.trace ∧
      (k.toNat ≤ 15 → (t.reg s.waitReg).toNat = k.toNat ∧ t.waitActive = false ∧
        Unchanged s t fun p => p = .reg s.waitReg ∨ p = .waitActive ∨ p = .queries ∨
          p = .trace ∨ p = .agenda) ∧
      (15 < k.toNat → Unchanged s t fun p => p = .queries ∨ p = .trace ∨ p = .agenda)

/-- SetSoundTimer (44_keyboard_timers.md R175): a nonzero value starts the Beeper every time; zero
issues no command, so a tone that is on stays on. -/
def Obligations.SetSoundTimer : Prop :=
  (∀ w : Word, w &&& 0xF0FF = 0xF018 → decodeWord w = .ok (.setSoundTimer (fieldX w))) ∧
  (∀ (s : State) (x : Reg), 0 < (s.reg x).toNat →
    ∃ t, exec (.setSoundTimer x) s = .next t ∧ t.st = s.reg x ∧ t.beep = true ∧
      t.trace = .startBeeping :: s.trace ∧
      Unchanged s t fun p => p = .st ∨ p = .beep ∨ p = .trace) ∧
  (∀ (s : State) (x : Reg), s.reg x = 0 →
    ∃ t, exec (.setSoundTimer x) s = .next t ∧ t.st = 0 ∧ Unchanged s t fun p => p = .st)

/-- One tick while RUNNING (60_exceptions.md R212): each nonzero timer is decremented; the Beeper is
stopped in the tick that takes `ST` from 1 to 0 and in no other. While STOPPED no tick is enabled
(R213); that its event is then an idle step is the model's reading (log 14, DEDUCED;
95_test_vectors.md B7). -/
def Obligations.Tick : Prop :=
  ∀ (s : State) (rest : List Event), s.agenda = .tick :: rest →
    ∃ t, step s = .next t ∧ t.agenda = rest ∧
      (s.run = false → Unchanged s t fun p => p = .agenda) ∧
      (s.run = true →
        t.dt.toNat = s.dt.toNat - 1 ∧ t.st.toNat = s.st.toNat - 1 ∧
        (s.st.toNat = 1 → t.beep = false ∧ t.trace = .stopBeeping :: s.trace) ∧
        (s.st.toNat ≠ 1 → t.beep = s.beep ∧ t.trace = s.trace) ∧
        Unchanged s t fun p =>
          p = .dt ∨ p = .st ∨ p = .beep ∨ p = .trace ∨ p = .agenda)

/-- Ticks in a row count both timers down to 0 and no further, and the tone ends exactly when the
sound timer runs out (60_exceptions.md R212). -/
def Obligations.TicksCountDown : Prop :=
  ∀ (n : Nat) (s : State), s.run = true →
    (State.ticks n s).dt.toNat = s.dt.toNat - n ∧
    (State.ticks n s).st.toNat = s.st.toNat - n ∧
    (State.ticks n s).beep = (if s.st ≠ 0 ∧ s.st.toNat ≤ n then false else s.beep) ∧
    Unchanged s (State.ticks n s) fun p => p = .dt ∨ p = .st ∨ p = .beep ∨ p = .trace

/-- Under a fair schedule of the two engines, in a run that stays RUNNING and executes no
SetDelayTimer, the delay timer reaches 0 (60_exceptions.md R214; 70_reset_and_hazards.md R267). -/
def Obligations.DelayExpiresUnderFairness : Prop :=
  ∀ (σ : Schedule) (f : Nat → State), σ.Fair → σ.NoHost → Follows σ f →
    (∀ n, (f n).run = true) →
    (∀ n x, ¬ Executes ((f n).facing (σ n)) (.setDelayTimer x)) →
    ∃ n, (f n).dt = 0

/-! ### Lifecycle and host -/

/-- Run (60_exceptions.md R206). -/
def Obligations.HostRun : Prop :=
  ∀ (s : State) (rest : List Event), s.agenda = .host .run :: rest →
    ∃ t, step s = .next t ∧ t.agenda = rest ∧ t.run = true ∧
      (s.run = true → Unchanged s t fun p => p = .agenda) ∧
      Unchanged s t fun p => p = .run ∨ p = .agenda

/-- Stop (60_exceptions.md R207): clears `RUN` and a pending wait and changes nothing else; while
STOPPED, a step that is no host command changes nothing. -/
def Obligations.HostStop : Prop :=
  (∀ (s : State) (rest : List Event), s.agenda = .host .stop :: rest →
    ∃ t, step s = .next t ∧ t.agenda = rest ∧ t.run = false ∧ t.waitActive = false ∧
      t.hostReply = some .stopped ∧
      Unchanged s t fun p => p = .run ∨ p = .waitActive ∨ p = .hostReply ∨ p = .agenda) ∧
  (∀ s t : State, s.run = false → (∀ c, s.agenda.head? ≠ some (.host c)) → step s = .next t →
    Unchanged s t fun p => p = .agenda)

/-- Reset (60_exceptions.md R208; 70_reset_and_hazards.md R252): the values it sets, and that every
byte of memory, the plane and the tone are as before and no port is used. That `IR` and `WAIT.reg`
are as before too is the model's reading of "unchanged, not meaningful" in 10_state.md R38 (log 12,
DEDUCED); R31 and U4 call both unspecified. -/
def Obligations.HostReset : Prop :=
  ∀ (s : State) (rest : List Event), s.agenda = .host .reset :: rest →
    ∃ t, step s = .next t ∧ t.agenda = rest ∧ t.hostReply = some .resetDone ∧
      t.run = false ∧ t.waitActive = false ∧ t.pc = 0x200 ∧ t.i = 0 ∧
      (∀ x, t.reg x = 0) ∧ t.dt = 0 ∧ t.st = 0 ∧ t.sp = 0x1000 ∧ t.haltCause = .none ∧
      (∀ p, p = .ir ∨ p = .waitReg ∨ p = .pix ∨ p = .beep ∨ p = .queries ∨ p = .trace ∨
        (∃ a, p = .mem a) → AgreeOn s t p)

/-- LoadRom while STOPPED (60_exceptions.md R209): too long a ROM fails and changes nothing;
otherwise the bytes are at [0x200, 0x200 + L) and nothing else changes. -/
def Obligations.HostLoadRom : Prop :=
  ∀ (s : State) (rom : List Byte) (rest : List Event), s.agenda = .host (.loadRom rom) :: rest →
    (s.run = false → rom.length > 3584 → ∃ t, step s = .next t ∧
      t.hostReply = some .loadFailure ∧ Unchanged s t fun p => p = .hostReply ∨ p = .agenda) ∧
    (s.run = false → rom.length ≤ 3584 → ∃ t, step s = .next t ∧
      t.hostReply = some .loaded ∧
      (∀ k, ∀ h : k < rom.length, t.readByte (0x200 + k) = some rom[k]) ∧
      Unchanged s t fun p => p = .hostReply ∨ p = .agenda ∨
        ∃ k, k < rom.length ∧ p = .mem (0x200 + k))

/-- Reading status at any time, and inspecting while STOPPED, give the host what it asked for, piece
by piece of 10_state.md, and change nothing else (60_exceptions.md R226; the codes of `HALT_CAUSE`
are those of R201). For a row and column outside the plane (10_state.md R35) the spec gives no
answer; the one in the clause on pixels is then the model's choice (log 28). -/
def Obligations.HostReads : Prop :=
  (∀ (s : State) (rest : List Event), s.agenda = .host .readStatus :: rest →
    ∃ t, step s = .next t ∧ t.hostReply = some (.status s.run s.haltCause) ∧
      Unchanged s t fun p => p = .hostReply ∨ p = .agenda) ∧
  (∀ (s : State) (what : Inspectable) (rest : List Event),
    s.agenda = .host (.inspect what) :: rest → s.run = false →
    ∃ t n, step s = .next t ∧ t.hostReply = some (.value n) ∧
      (Unchanged s t fun p => p = .hostReply ∨ p = .agenda) ∧
      (∀ x, what = .v x → n = (s.reg x).toNat) ∧
      (what = .i → n = s.i.toNat) ∧
      (what = .pc → n = s.pc.toNat) ∧
      (what = .sp → n = s.sp.toNat) ∧
      (what = .dt → n = s.dt.toNat) ∧
      (what = .st → n = s.st.toNat) ∧
      (what = .run → n = 0) ∧
      (what = .haltCause →
        (s.haltCause = .none → n = 0) ∧ (s.haltCause = .decodeFailure → n = 1) ∧
        (s.haltCause = .stackFault → n = 2) ∧ (s.haltCause = .accessFault → n = 3) ∧
        (s.haltCause = .keyFault → n = 4)) ∧
      (what = .ir → n = s.ir.toNat) ∧
      (what = .waitActive → n = if s.waitActive = true then 1 else 0) ∧
      (what = .waitReg → n = s.waitReg.toNat) ∧
      (∀ a, what = .mem a → ∃ b, s.readByte a.toNat = some b ∧ n = b.toNat) ∧
      (∀ row col, what = .pix row col → n = if (row, col) ∈ s.pix then 1 else 0) ∧
      (what = .beep → n = if s.beep = true then 1 else 0))

/-- STOPPED is left by Run and by nothing else, and engine events change nothing in it
(60_exceptions.md R229). -/
def Obligations.OnlyRunWakes : Prop :=
  ∀ s t : State, s.run = false → step s = .next t →
    (t.run = true → s.agenda.head? = some (.host .run)) ∧
    ((∀ c, s.agenda.head? ≠ some (.host c)) → Unchanged s t fun p => p = .agenda)

/-- A run ends by Stop, which leaves `HALT_CAUSE`, by Reset, which clears it, or by a fault of the
instruction engine, which writes it (60_exceptions.md R230). -/
def Obligations.HowARunEnds : Prop :=
  ∀ s t : State, s.run = true → step s = .next t → t.run = false →
    (s.agenda.head? = some (.host .stop) ∧ t.haltCause = s.haltCause) ∨
    (s.agenda.head? = some (.host .reset) ∧ t.haltCause = .none) ∨
    (EngineTurn s ∧ t.haltCause ≠ .none)

/-- `HALT_CAUSE` is sticky: only Reset clears it, and only a fault of the instruction engine writes
it (10_state.md R30). -/
def Obligations.HaltCauseIsSticky : Prop :=
  ∀ s t : State, step s = .next t → t.haltCause ≠ s.haltCause →
    (s.agenda.head? = some (.host .reset) ∧ t.haltCause = .none) ∨
    (EngineTurn s ∧ s.run = true ∧ t.run = false ∧ t.haltCause ≠ .none)

/-- The parameter `FONT` and what power-on leaves unspecified, for every choice of them: the font
is at 0x000, the registers have their power-on values, no port was used
(70_reset_and_hazards.md R250). The reset state is one such choice (log 8 to 11). -/
def Obligations.PowerOn : Prop :=
  (∀ u : PowerOnChoice, u.font.length = 80 → u.ram.length ≤ 4016 →
    (∀ k, ∀ h : k < u.font.length, (State.powerOn u).readByte k = some u.font[k]) ∧
    (∀ k, ∀ h : k < u.ram.length, (State.powerOn u).readByte (0x50 + k) = some u.ram[k])) ∧
  (∀ u : PowerOnChoice,
    (∀ x, (State.powerOn u).reg x = 0) ∧ (State.powerOn u).i = 0 ∧
    (State.powerOn u).pc = 0x200 ∧ (State.powerOn u).sp = 0x1000 ∧ (State.powerOn u).dt = 0 ∧
    (State.powerOn u).st = 0 ∧ (State.powerOn u).run = false ∧
    (State.powerOn u).haltCause = .none ∧ (State.powerOn u).waitActive = false ∧
    (State.powerOn u).trace = [] ∧ (State.powerOn u).mem.wf) ∧
  State.reset = State.powerOn defaultChoice

/-! ### Invariants and rules of the whole machine -/

/-- The state after power-on meets the invariant (10_state.md R27, R32). The plane and the tone
there are the model's choice (log 11). -/
def Obligations.ResetInvariant : Prop := Invariant State.reset

/-- Every step keeps the invariant: memory and plane canonical, `SP` even and in its window, a key
wait only while RUNNING, the tone on while the sound timer counts (10_state.md R27, R32, R35;
44_keyboard_timers.md R175; 60_exceptions.md R212). -/
def Obligations.StepKeepsInvariant : Prop :=
  ∀ s t : State, Invariant s → step s = .next t → Invariant t

/-- Equal memories are equal data: two canonical memories that read alike on all 4096 addresses are
the same list. About the model's own representation of memory, which is its choice (log 27, DESIGN
CHOICE); the spec says nothing of it. -/
def Obligations.MemoryIsCanonical : Prop :=
  ∀ m m' : Memory, m.wf → m'.wf → (∀ a, a < 0x1000 → m.byte a = m'.byte a) → m = m'

/-- What writes `SP`, `I`, `DT` and `ST`, and nothing else does (10_state.md R24, R27, R28). -/
def Obligations.WhoWritesRegisters : Prop :=
  ∀ s t : State, step s = .next t →
    (t.sp ≠ s.sp → Executes s .ret ∨ (∃ nnn, Executes s (.call nnn)) ∨
      s.agenda.head? = some (.host .reset)) ∧
    (t.i ≠ s.i → (∃ nnn, Executes s (.setIRegister nnn)) ∨ (∃ x, Executes s (.addToI x)) ∨
      (∃ x, Executes s (.setIToChar x)) ∨ s.agenda.head? = some (.host .reset)) ∧
    (t.dt ≠ s.dt → (∃ x, Executes s (.setDelayTimer x)) ∨
      (s.agenda.head? = some .tick ∧ s.run = true) ∨ s.agenda.head? = some (.host .reset)) ∧
    (t.st ≠ s.st → (∃ x, Executes s (.setSoundTimer x)) ∨
      (s.agenda.head? = some .tick ∧ s.run = true) ∨ s.agenda.head? = some (.host .reset))

/-- What writes memory, the plane and the tone, and nothing else does: Reset changes none of them
(10_state.md R33, R34, R35; 20_memory.md R59). -/
def Obligations.WhoWritesMemoryAndPorts : Prop :=
  ∀ s t : State, step s = .next t →
    (t.mem ≠ s.mem → (∃ x, Executes s (.storeBCD x)) ∨ (∃ x, Executes s (.storeRegs x)) ∨
      (∃ nnn, Executes s (.call nnn)) ∨ ∃ rom, s.agenda.head? = some (.host (.loadRom rom))) ∧
    (t.pix ≠ s.pix → Executes s .clearScreen ∨ ∃ x y n, Executes s (.drawSprite x y n)) ∧
    (t.beep ≠ s.beep → (∃ x, Executes s (.setSoundTimer x)) ∨ s.agenda.head? = some .tick)

/-- No instruction reads `ST`, `HALT_CAUSE`, `IR` or `BEEP`: two states that differ in them only
stay alike in everything else (10_state.md R28, R30, R31, R35). The two states have equal query
counts, so SetRandom and the key skips get equal answers in both: that is the model's choice
(log 4); R222 and R224 let the answers differ. -/
def Obligations.HiddenStateIsNotRead : Prop :=
  ∀ (i : Instr) (s t : State) (st : Byte) (c : HaltCause) (ir : Word) (b : Bool),
    exec i s = .next t →
    ∃ t', exec i { s with st := st, haltCause := c, ir := ir, beep := b } = .next t' ∧
      Unchanged t t' fun p => p = .st ∨ p = .haltCause ∨ p = .ir ∨ p = .beep
end

