-- ==== Sys2Proof/Laws/Decode.lean ====
section
/-! SUPPORT. The fields of a word: of an encoded instruction, and of a word known through a mask
(30_encoding.md R82, R83, R84). -/

namespace Sys2Proof

@[simp] theorem fieldOp_toNat (w : Word) : (fieldOp w).toNat = w.toNat / 4096 := by
  have := w.isLt
  simp only [fieldOp, BitVec.extractLsb'_toNat, Nat.shiftRight_eq_div_pow]
  omega

@[simp] theorem fieldX_toNat (w : Word) : (fieldX w).toNat = w.toNat / 256 % 16 := by
  simp only [fieldX, BitVec.extractLsb'_toNat, Nat.shiftRight_eq_div_pow, Nat.reducePow]

@[simp] theorem fieldY_toNat (w : Word) : (fieldY w).toNat = w.toNat / 16 % 16 := by
  simp only [fieldY, BitVec.extractLsb'_toNat, Nat.shiftRight_eq_div_pow, Nat.reducePow]

@[simp] theorem fieldN_toNat (w : Word) : (fieldN w).toNat = w.toNat % 16 := by
  simp [fieldN, BitVec.extractLsb'_toNat]

@[simp] theorem fieldKK_toNat (w : Word) : (fieldKK w).toNat = w.toNat % 256 := by
  simp [fieldKK, BitVec.extractLsb'_toNat]

@[simp] theorem fieldNNN_toNat (w : Word) : (fieldNNN w).toNat = w.toNat % 4096 := by
  simp [fieldNNN, BitVec.extractLsb'_toNat]

theorem encodeNNN_toNat (op : BitVec 4) (nnn : Addr) :
    (encodeNNN op nnn).toNat = op.toNat * 4096 + nnn.toNat := by
  simp only [encodeNNN, BitVec.toNat_cast, BitVec.toNat_append]
  rw [← Nat.shiftLeft_add_eq_or_of_lt nnn.isLt, Nat.shiftLeft_eq]

theorem encodeXKK_toNat (op : BitVec 4) (x : Reg) (kk : Byte) :
    (encodeXKK op x kk).toNat = op.toNat * 4096 + x.toNat * 256 + kk.toNat := by
  simp only [encodeXKK, BitVec.toNat_cast, BitVec.toNat_append]
  rw [← Nat.shiftLeft_add_eq_or_of_lt kk.isLt, ← Nat.shiftLeft_add_eq_or_of_lt x.isLt,
    Nat.shiftLeft_eq, Nat.shiftLeft_eq]
  omega

theorem encodeXYN_toNat (op : BitVec 4) (x y : Reg) (n : BitVec 4) :
    (encodeXYN op x y n).toNat = op.toNat * 4096 + x.toNat * 256 + y.toNat * 16 + n.toNat := by
  simp only [encodeXYN, BitVec.toNat_cast, BitVec.toNat_append]
  rw [← Nat.shiftLeft_add_eq_or_of_lt n.isLt, ← Nat.shiftLeft_add_eq_or_of_lt y.isLt,
    ← Nat.shiftLeft_add_eq_or_of_lt x.isLt, Nat.shiftLeft_eq, Nat.shiftLeft_eq,
    Nat.shiftLeft_eq]
  omega

/-! ### The fields of an encoded instruction -/

section
variable (op : BitVec 4) (nnn : Addr) (x y : Reg) (kk : Byte) (n : BitVec 4)

@[simp] theorem fieldOp_encodeNNN : fieldOp (encodeNNN op nnn) = op := by
  apply BitVec.eq_of_toNat_eq
  have := nnn.isLt
  simp only [fieldOp_toNat, encodeNNN_toNat]
  omega

@[simp] theorem fieldNNN_encodeNNN : fieldNNN (encodeNNN op nnn) = nnn := by
  apply BitVec.eq_of_toNat_eq
  have := nnn.isLt
  simp only [fieldNNN_toNat, encodeNNN_toNat]
  omega

@[simp] theorem fieldOp_encodeXKK : fieldOp (encodeXKK op x kk) = op := by
  apply BitVec.eq_of_toNat_eq
  have := x.isLt; have := kk.isLt
  simp only [fieldOp_toNat, encodeXKK_toNat]
  omega

@[simp] theorem fieldX_encodeXKK : fieldX (encodeXKK op x kk) = x := by
  apply BitVec.eq_of_toNat_eq
  have := x.isLt; have := kk.isLt
  simp only [fieldX_toNat, encodeXKK_toNat]
  omega

@[simp] theorem fieldKK_encodeXKK : fieldKK (encodeXKK op x kk) = kk := by
  apply BitVec.eq_of_toNat_eq
  have := x.isLt; have := kk.isLt
  simp only [fieldKK_toNat, encodeXKK_toNat]
  omega

@[simp] theorem fieldOp_encodeXYN : fieldOp (encodeXYN op x y n) = op := by
  apply BitVec.eq_of_toNat_eq
  have := x.isLt; have := y.isLt; have := n.isLt
  simp only [fieldOp_toNat, encodeXYN_toNat]
  omega

@[simp] theorem fieldX_encodeXYN : fieldX (encodeXYN op x y n) = x := by
  apply BitVec.eq_of_toNat_eq
  have := x.isLt; have := y.isLt; have := n.isLt
  simp only [fieldX_toNat, encodeXYN_toNat]
  omega

@[simp] theorem fieldY_encodeXYN : fieldY (encodeXYN op x y n) = y := by
  apply BitVec.eq_of_toNat_eq
  have := x.isLt; have := y.isLt; have := n.isLt
  simp only [fieldY_toNat, encodeXYN_toNat]
  omega

@[simp] theorem fieldN_encodeXYN : fieldN (encodeXYN op x y n) = n := by
  apply BitVec.eq_of_toNat_eq
  have := x.isLt; have := y.isLt; have := n.isLt
  simp only [fieldN_toNat, encodeXYN_toNat]
  omega

end

/-! ### A word is its fields -/

theorem word_eq_encodeNNN (w : Word) : w = encodeNNN (fieldOp w) (fieldNNN w) := by
  apply BitVec.eq_of_toNat_eq
  rw [encodeNNN_toNat, fieldOp_toNat, fieldNNN_toNat]
  omega

theorem word_eq_encodeXKK (w : Word) : w = encodeXKK (fieldOp w) (fieldX w) (fieldKK w) := by
  apply BitVec.eq_of_toNat_eq
  rw [encodeXKK_toNat, fieldOp_toNat, fieldX_toNat, fieldKK_toNat]
  omega

theorem word_eq_encodeXYN (w : Word) :
    w = encodeXYN (fieldOp w) (fieldX w) (fieldY w) (fieldN w) := by
  apply BitVec.eq_of_toNat_eq
  rw [encodeXYN_toNat, fieldOp_toNat, fieldX_toNat, fieldY_toNat, fieldN_toNat]
  omega

/-! ### A word known through a mask of the opcode table -/

theorem fieldOp_and (w m : Word) : fieldOp (w &&& m) = fieldOp w &&& fieldOp m := by
  ext k hk
  simp [fieldOp]

theorem fieldX_and (w m : Word) : fieldX (w &&& m) = fieldX w &&& fieldX m := by
  ext k hk
  simp [fieldX]

theorem fieldY_and (w m : Word) : fieldY (w &&& m) = fieldY w &&& fieldY m := by
  ext k hk
  simp [fieldY]

theorem fieldN_and (w m : Word) : fieldN (w &&& m) = fieldN w &&& fieldN m := by
  ext k hk
  simp [fieldN]

theorem fieldKK_and (w m : Word) : fieldKK (w &&& m) = fieldKK w &&& fieldKK m := by
  ext k hk
  simp [fieldKK]

theorem fieldNNN_and (w m : Word) : fieldNNN (w &&& m) = fieldNNN w &&& fieldNNN m := by
  ext k hk
  simp [fieldNNN]

/-- The mask 0xF000 keeps the top nibble. -/
theorem and_maskF000 (w : Word) : w &&& 0xF000 = encodeNNN (fieldOp w) 0 := by
  rw [word_eq_encodeNNN (w &&& 0xF000), fieldOp_and, fieldNNN_and]
  congr 1
  · exact BitVec.and_allOnes
  · exact BitVec.and_zero

/-- The mask 0xF00F keeps the top and the low nibble. -/
theorem and_maskF00F (w : Word) : w &&& 0xF00F = encodeXYN (fieldOp w) 0 0 (fieldN w) := by
  rw [word_eq_encodeXYN (w &&& 0xF00F), fieldOp_and, fieldX_and, fieldY_and, fieldN_and]
  congr 1
  · exact BitVec.and_allOnes
  · exact BitVec.and_zero
  · exact BitVec.and_zero
  · exact BitVec.and_allOnes

/-- The mask 0xF0FF keeps the top nibble and the low byte. -/
theorem and_maskF0FF (w : Word) : w &&& 0xF0FF = encodeXKK (fieldOp w) 0 (fieldKK w) := by
  rw [word_eq_encodeXKK (w &&& 0xF0FF), fieldOp_and, fieldX_and, fieldKK_and]
  congr 1
  · exact BitVec.and_allOnes
  · exact BitVec.and_zero
  · exact BitVec.and_allOnes

/-- Through the mask 0xF000 the top nibble is known. -/
theorem fieldOp_of_maskF000 {w b : Word} (h : w &&& 0xF000 = b) : fieldOp w = fieldOp b := by
  rw [← h, and_maskF000, fieldOp_encodeNNN]

/-- Through the mask 0xF00F the top and the low nibble are known. -/
theorem fields_of_maskF00F {w b : Word} (h : w &&& 0xF00F = b) :
    fieldOp w = fieldOp b ∧ fieldN w = fieldN b := by
  rw [← h, and_maskF00F, fieldOp_encodeXYN, fieldN_encodeXYN]
  exact ⟨rfl, rfl⟩

/-- Through the mask 0xF0FF the top nibble and the low byte are known. -/
theorem fields_of_maskF0FF {w b : Word} (h : w &&& 0xF0FF = b) :
    fieldOp w = fieldOp b ∧ fieldKK w = fieldKK b := by
  rw [← h, and_maskF0FF, fieldOp_encodeXKK, fieldKK_encodeXKK]
  exact ⟨rfl, rfl⟩

end Sys2Proof
end

