-- ==== Sys2Proof/Laws/State.lean ====
section
/-! SUPPORT. What each update of the state does to each field, so that no proof unfolds a record
update. -/

namespace Sys2Proof.Machine

variable (s : State)

/-! ### `setReg` -/

@[simp] theorem State.setReg_v (x : Reg) (b : Byte) :
    (s.setReg x b).v = s.v.set x.toNat b x.isLt := rfl
@[simp] theorem State.setReg_i (x : Reg) (b : Byte) : (s.setReg x b).i = s.i := rfl
@[simp] theorem State.setReg_pc (x : Reg) (b : Byte) : (s.setReg x b).pc = s.pc := rfl
@[simp] theorem State.setReg_sp (x : Reg) (b : Byte) : (s.setReg x b).sp = s.sp := rfl
@[simp] theorem State.setReg_dt (x : Reg) (b : Byte) : (s.setReg x b).dt = s.dt := rfl
@[simp] theorem State.setReg_st (x : Reg) (b : Byte) : (s.setReg x b).st = s.st := rfl
@[simp] theorem State.setReg_run (x : Reg) (b : Byte) : (s.setReg x b).run = s.run := rfl
@[simp] theorem State.setReg_haltCause (x : Reg) (b : Byte) :
    (s.setReg x b).haltCause = s.haltCause := rfl
@[simp] theorem State.setReg_ir (x : Reg) (b : Byte) : (s.setReg x b).ir = s.ir := rfl
@[simp] theorem State.setReg_waitActive (x : Reg) (b : Byte) :
    (s.setReg x b).waitActive = s.waitActive := rfl
@[simp] theorem State.setReg_waitReg (x : Reg) (b : Byte) :
    (s.setReg x b).waitReg = s.waitReg := rfl
@[simp] theorem State.setReg_mem (x : Reg) (b : Byte) : (s.setReg x b).mem = s.mem := rfl
@[simp] theorem State.setReg_pix (x : Reg) (b : Byte) : (s.setReg x b).pix = s.pix := rfl
@[simp] theorem State.setReg_beep (x : Reg) (b : Byte) : (s.setReg x b).beep = s.beep := rfl
@[simp] theorem State.setReg_queries (x : Reg) (b : Byte) :
    (s.setReg x b).queries = s.queries := rfl
@[simp] theorem State.setReg_trace (x : Reg) (b : Byte) : (s.setReg x b).trace = s.trace := rfl
@[simp] theorem State.setReg_agenda (x : Reg) (b : Byte) : (s.setReg x b).agenda = s.agenda := rfl
@[simp] theorem State.setReg_hostReply (x : Reg) (b : Byte) :
    (s.setReg x b).hostReply = s.hostReply := rfl

/-! ### `jumpTo` -/

@[simp] theorem State.jumpTo_v (w : Word) : (s.jumpTo w).v = s.v := rfl
@[simp] theorem State.jumpTo_i (w : Word) : (s.jumpTo w).i = s.i := rfl
@[simp] theorem State.jumpTo_pc (w : Word) : (s.jumpTo w).pc = w := rfl
@[simp] theorem State.jumpTo_sp (w : Word) : (s.jumpTo w).sp = s.sp := rfl
@[simp] theorem State.jumpTo_dt (w : Word) : (s.jumpTo w).dt = s.dt := rfl
@[simp] theorem State.jumpTo_st (w : Word) : (s.jumpTo w).st = s.st := rfl
@[simp] theorem State.jumpTo_run (w : Word) : (s.jumpTo w).run = s.run := rfl
@[simp] theorem State.jumpTo_haltCause (w : Word) : (s.jumpTo w).haltCause = s.haltCause := rfl
@[simp] theorem State.jumpTo_ir (w : Word) : (s.jumpTo w).ir = s.ir := rfl
@[simp] theorem State.jumpTo_waitActive (w : Word) : (s.jumpTo w).waitActive = s.waitActive := rfl
@[simp] theorem State.jumpTo_waitReg (w : Word) : (s.jumpTo w).waitReg = s.waitReg := rfl
@[simp] theorem State.jumpTo_mem (w : Word) : (s.jumpTo w).mem = s.mem := rfl
@[simp] theorem State.jumpTo_pix (w : Word) : (s.jumpTo w).pix = s.pix := rfl
@[simp] theorem State.jumpTo_beep (w : Word) : (s.jumpTo w).beep = s.beep := rfl
@[simp] theorem State.jumpTo_queries (w : Word) : (s.jumpTo w).queries = s.queries := rfl
@[simp] theorem State.jumpTo_trace (w : Word) : (s.jumpTo w).trace = s.trace := rfl
@[simp] theorem State.jumpTo_agenda (w : Word) : (s.jumpTo w).agenda = s.agenda := rfl
@[simp] theorem State.jumpTo_hostReply (w : Word) : (s.jumpTo w).hostReply = s.hostReply := rfl

/-! ### `setIndex` -/

@[simp] theorem State.setIndex_v (w : Word) : (s.setIndex w).v = s.v := rfl
@[simp] theorem State.setIndex_i (w : Word) : (s.setIndex w).i = w := rfl
@[simp] theorem State.setIndex_pc (w : Word) : (s.setIndex w).pc = s.pc := rfl
@[simp] theorem State.setIndex_sp (w : Word) : (s.setIndex w).sp = s.sp := rfl
@[simp] theorem State.setIndex_dt (w : Word) : (s.setIndex w).dt = s.dt := rfl
@[simp] theorem State.setIndex_st (w : Word) : (s.setIndex w).st = s.st := rfl
@[simp] theorem State.setIndex_run (w : Word) : (s.setIndex w).run = s.run := rfl
@[simp] theorem State.setIndex_haltCause (w : Word) :
    (s.setIndex w).haltCause = s.haltCause := rfl
@[simp] theorem State.setIndex_ir (w : Word) : (s.setIndex w).ir = s.ir := rfl
@[simp] theorem State.setIndex_waitActive (w : Word) :
    (s.setIndex w).waitActive = s.waitActive := rfl
@[simp] theorem State.setIndex_waitReg (w : Word) : (s.setIndex w).waitReg = s.waitReg := rfl
@[simp] theorem State.setIndex_mem (w : Word) : (s.setIndex w).mem = s.mem := rfl
@[simp] theorem State.setIndex_pix (w : Word) : (s.setIndex w).pix = s.pix := rfl
@[simp] theorem State.setIndex_beep (w : Word) : (s.setIndex w).beep = s.beep := rfl
@[simp] theorem State.setIndex_queries (w : Word) : (s.setIndex w).queries = s.queries := rfl
@[simp] theorem State.setIndex_trace (w : Word) : (s.setIndex w).trace = s.trace := rfl
@[simp] theorem State.setIndex_agenda (w : Word) : (s.setIndex w).agenda = s.agenda := rfl
@[simp] theorem State.setIndex_hostReply (w : Word) :
    (s.setIndex w).hostReply = s.hostReply := rfl

/-! ### `skipIf` -/

@[simp] theorem State.skipIf_v (c : Bool) : (s.skipIf c).v = s.v := rfl
@[simp] theorem State.skipIf_i (c : Bool) : (s.skipIf c).i = s.i := rfl
@[simp] theorem State.skipIf_pc (c : Bool) : (s.skipIf c).pc = if c then s.pc + 2 else s.pc := rfl
@[simp] theorem State.skipIf_sp (c : Bool) : (s.skipIf c).sp = s.sp := rfl
@[simp] theorem State.skipIf_dt (c : Bool) : (s.skipIf c).dt = s.dt := rfl
@[simp] theorem State.skipIf_st (c : Bool) : (s.skipIf c).st = s.st := rfl
@[simp] theorem State.skipIf_run (c : Bool) : (s.skipIf c).run = s.run := rfl
@[simp] theorem State.skipIf_haltCause (c : Bool) : (s.skipIf c).haltCause = s.haltCause := rfl
@[simp] theorem State.skipIf_ir (c : Bool) : (s.skipIf c).ir = s.ir := rfl
@[simp] theorem State.skipIf_waitActive (c : Bool) : (s.skipIf c).waitActive = s.waitActive := rfl
@[simp] theorem State.skipIf_waitReg (c : Bool) : (s.skipIf c).waitReg = s.waitReg := rfl
@[simp] theorem State.skipIf_mem (c : Bool) : (s.skipIf c).mem = s.mem := rfl
@[simp] theorem State.skipIf_pix (c : Bool) : (s.skipIf c).pix = s.pix := rfl
@[simp] theorem State.skipIf_beep (c : Bool) : (s.skipIf c).beep = s.beep := rfl
@[simp] theorem State.skipIf_queries (c : Bool) : (s.skipIf c).queries = s.queries := rfl
@[simp] theorem State.skipIf_trace (c : Bool) : (s.skipIf c).trace = s.trace := rfl
@[simp] theorem State.skipIf_agenda (c : Bool) : (s.skipIf c).agenda = s.agenda := rfl
@[simp] theorem State.skipIf_hostReply (c : Bool) : (s.skipIf c).hostReply = s.hostReply := rfl

/-! ### `raise` -/

@[simp] theorem State.raise_v (c : HaltCause) : (s.raise c).v = s.v := rfl
@[simp] theorem State.raise_i (c : HaltCause) : (s.raise c).i = s.i := rfl
@[simp] theorem State.raise_pc (c : HaltCause) : (s.raise c).pc = s.pc := rfl
@[simp] theorem State.raise_sp (c : HaltCause) : (s.raise c).sp = s.sp := rfl
@[simp] theorem State.raise_dt (c : HaltCause) : (s.raise c).dt = s.dt := rfl
@[simp] theorem State.raise_st (c : HaltCause) : (s.raise c).st = s.st := rfl
@[simp] theorem State.raise_run (c : HaltCause) : (s.raise c).run = false := rfl
@[simp] theorem State.raise_haltCause (c : HaltCause) : (s.raise c).haltCause = c := rfl
@[simp] theorem State.raise_ir (c : HaltCause) : (s.raise c).ir = s.ir := rfl
@[simp] theorem State.raise_waitActive (c : HaltCause) :
    (s.raise c).waitActive = s.waitActive := rfl
@[simp] theorem State.raise_waitReg (c : HaltCause) : (s.raise c).waitReg = s.waitReg := rfl
@[simp] theorem State.raise_mem (c : HaltCause) : (s.raise c).mem = s.mem := rfl
@[simp] theorem State.raise_pix (c : HaltCause) : (s.raise c).pix = s.pix := rfl
@[simp] theorem State.raise_beep (c : HaltCause) : (s.raise c).beep = s.beep := rfl
@[simp] theorem State.raise_queries (c : HaltCause) : (s.raise c).queries = s.queries := rfl
@[simp] theorem State.raise_trace (c : HaltCause) : (s.raise c).trace = s.trace := rfl
@[simp] theorem State.raise_agenda (c : HaltCause) : (s.raise c).agenda = s.agenda := rfl
@[simp] theorem State.raise_hostReply (c : HaltCause) : (s.raise c).hostReply = s.hostReply := rfl

/-! ### `query` -/

@[simp] theorem State.query_v (c : PortCall) : (s.query c).v = s.v := rfl
@[simp] theorem State.query_i (c : PortCall) : (s.query c).i = s.i := rfl
@[simp] theorem State.query_pc (c : PortCall) : (s.query c).pc = s.pc := rfl
@[simp] theorem State.query_sp (c : PortCall) : (s.query c).sp = s.sp := rfl
@[simp] theorem State.query_dt (c : PortCall) : (s.query c).dt = s.dt := rfl
@[simp] theorem State.query_st (c : PortCall) : (s.query c).st = s.st := rfl
@[simp] theorem State.query_run (c : PortCall) : (s.query c).run = s.run := rfl
@[simp] theorem State.query_haltCause (c : PortCall) : (s.query c).haltCause = s.haltCause := rfl
@[simp] theorem State.query_ir (c : PortCall) : (s.query c).ir = s.ir := rfl
@[simp] theorem State.query_waitActive (c : PortCall) :
    (s.query c).waitActive = s.waitActive := rfl
@[simp] theorem State.query_waitReg (c : PortCall) : (s.query c).waitReg = s.waitReg := rfl
@[simp] theorem State.query_mem (c : PortCall) : (s.query c).mem = s.mem := rfl
@[simp] theorem State.query_pix (c : PortCall) : (s.query c).pix = s.pix := rfl
@[simp] theorem State.query_beep (c : PortCall) : (s.query c).beep = s.beep := rfl
@[simp] theorem State.query_queries (c : PortCall) : (s.query c).queries = s.queries + 1 := rfl
@[simp] theorem State.query_trace (c : PortCall) : (s.query c).trace = c :: s.trace := rfl
@[simp] theorem State.query_agenda (c : PortCall) : (s.query c).agenda = s.agenda := rfl
@[simp] theorem State.query_hostReply (c : PortCall) : (s.query c).hostReply = s.hostReply := rfl

/-! ### `displayClear` -/

@[simp] theorem State.displayClear_v : s.displayClear.v = s.v := rfl
@[simp] theorem State.displayClear_i : s.displayClear.i = s.i := rfl
@[simp] theorem State.displayClear_pc : s.displayClear.pc = s.pc := rfl
@[simp] theorem State.displayClear_sp : s.displayClear.sp = s.sp := rfl
@[simp] theorem State.displayClear_dt : s.displayClear.dt = s.dt := rfl
@[simp] theorem State.displayClear_st : s.displayClear.st = s.st := rfl
@[simp] theorem State.displayClear_run : s.displayClear.run = s.run := rfl
@[simp] theorem State.displayClear_haltCause : s.displayClear.haltCause = s.haltCause := rfl
@[simp] theorem State.displayClear_ir : s.displayClear.ir = s.ir := rfl
@[simp] theorem State.displayClear_waitActive : s.displayClear.waitActive = s.waitActive := rfl
@[simp] theorem State.displayClear_waitReg : s.displayClear.waitReg = s.waitReg := rfl
@[simp] theorem State.displayClear_mem : s.displayClear.mem = s.mem := rfl
@[simp] theorem State.displayClear_pix : s.displayClear.pix = [] := rfl
@[simp] theorem State.displayClear_beep : s.displayClear.beep = s.beep := rfl
@[simp] theorem State.displayClear_queries : s.displayClear.queries = s.queries := rfl
@[simp] theorem State.displayClear_trace : s.displayClear.trace = .displayClear :: s.trace := rfl
@[simp] theorem State.displayClear_agenda : s.displayClear.agenda = s.agenda := rfl
@[simp] theorem State.displayClear_hostReply : s.displayClear.hostReply = s.hostReply := rfl

/-! ### `startBeeping` -/

@[simp] theorem State.startBeeping_v : s.startBeeping.v = s.v := rfl
@[simp] theorem State.startBeeping_i : s.startBeeping.i = s.i := rfl
@[simp] theorem State.startBeeping_pc : s.startBeeping.pc = s.pc := rfl
@[simp] theorem State.startBeeping_sp : s.startBeeping.sp = s.sp := rfl
@[simp] theorem State.startBeeping_dt : s.startBeeping.dt = s.dt := rfl
@[simp] theorem State.startBeeping_st : s.startBeeping.st = s.st := rfl
@[simp] theorem State.startBeeping_run : s.startBeeping.run = s.run := rfl
@[simp] theorem State.startBeeping_haltCause : s.startBeeping.haltCause = s.haltCause := rfl
@[simp] theorem State.startBeeping_ir : s.startBeeping.ir = s.ir := rfl
@[simp] theorem State.startBeeping_waitActive : s.startBeeping.waitActive = s.waitActive := rfl
@[simp] theorem State.startBeeping_waitReg : s.startBeeping.waitReg = s.waitReg := rfl
@[simp] theorem State.startBeeping_mem : s.startBeeping.mem = s.mem := rfl
@[simp] theorem State.startBeeping_pix : s.startBeeping.pix = s.pix := rfl
@[simp] theorem State.startBeeping_beep : s.startBeeping.beep = true := rfl
@[simp] theorem State.startBeeping_queries : s.startBeeping.queries = s.queries := rfl
@[simp] theorem State.startBeeping_trace : s.startBeeping.trace = .startBeeping :: s.trace := rfl
@[simp] theorem State.startBeeping_agenda : s.startBeeping.agenda = s.agenda := rfl
@[simp] theorem State.startBeeping_hostReply : s.startBeeping.hostReply = s.hostReply := rfl

/-! ### `stopBeeping` -/

@[simp] theorem State.stopBeeping_v : s.stopBeeping.v = s.v := rfl
@[simp] theorem State.stopBeeping_i : s.stopBeeping.i = s.i := rfl
@[simp] theorem State.stopBeeping_pc : s.stopBeeping.pc = s.pc := rfl
@[simp] theorem State.stopBeeping_sp : s.stopBeeping.sp = s.sp := rfl
@[simp] theorem State.stopBeeping_dt : s.stopBeeping.dt = s.dt := rfl
@[simp] theorem State.stopBeeping_st : s.stopBeeping.st = s.st := rfl
@[simp] theorem State.stopBeeping_run : s.stopBeeping.run = s.run := rfl
@[simp] theorem State.stopBeeping_haltCause : s.stopBeeping.haltCause = s.haltCause := rfl
@[simp] theorem State.stopBeeping_ir : s.stopBeeping.ir = s.ir := rfl
@[simp] theorem State.stopBeeping_waitActive : s.stopBeeping.waitActive = s.waitActive := rfl
@[simp] theorem State.stopBeeping_waitReg : s.stopBeeping.waitReg = s.waitReg := rfl
@[simp] theorem State.stopBeeping_mem : s.stopBeeping.mem = s.mem := rfl
@[simp] theorem State.stopBeeping_pix : s.stopBeeping.pix = s.pix := rfl
@[simp] theorem State.stopBeeping_beep : s.stopBeeping.beep = false := rfl
@[simp] theorem State.stopBeeping_queries : s.stopBeeping.queries = s.queries := rfl
@[simp] theorem State.stopBeeping_trace : s.stopBeeping.trace = .stopBeeping :: s.trace := rfl
@[simp] theorem State.stopBeeping_agenda : s.stopBeeping.agenda = s.agenda := rfl
@[simp] theorem State.stopBeeping_hostReply : s.stopBeeping.hostReply = s.hostReply := rfl

/-! ### `fetched` -/

@[simp] theorem State.fetched_v : s.fetched.v = s.v := rfl
@[simp] theorem State.fetched_i : s.fetched.i = s.i := rfl
@[simp] theorem State.fetched_pc : s.fetched.pc = s.pc + 2 := rfl
@[simp] theorem State.fetched_sp : s.fetched.sp = s.sp := rfl
@[simp] theorem State.fetched_dt : s.fetched.dt = s.dt := rfl
@[simp] theorem State.fetched_st : s.fetched.st = s.st := rfl
@[simp] theorem State.fetched_run : s.fetched.run = s.run := rfl
@[simp] theorem State.fetched_haltCause : s.fetched.haltCause = s.haltCause := rfl
@[simp] theorem State.fetched_ir :
    s.fetched.ir = wordOfBytes (s.mem.byte s.pc.toNat) (s.mem.byte (s.pc.toNat + 1)) := rfl
@[simp] theorem State.fetched_waitActive : s.fetched.waitActive = s.waitActive := rfl
@[simp] theorem State.fetched_waitReg : s.fetched.waitReg = s.waitReg := rfl
@[simp] theorem State.fetched_mem : s.fetched.mem = s.mem := rfl
@[simp] theorem State.fetched_pix : s.fetched.pix = s.pix := rfl
@[simp] theorem State.fetched_beep : s.fetched.beep = s.beep := rfl
@[simp] theorem State.fetched_queries : s.fetched.queries = s.queries := rfl
@[simp] theorem State.fetched_trace : s.fetched.trace = s.trace := rfl
@[simp] theorem State.fetched_agenda : s.fetched.agenda = s.agenda := rfl
@[simp] theorem State.fetched_hostReply : s.fetched.hostReply = s.hostReply := rfl

/-! ### `withAgenda` -/

@[simp] theorem State.withAgenda_v (es : List Event) : (s.withAgenda es).v = s.v := rfl
@[simp] theorem State.withAgenda_i (es : List Event) : (s.withAgenda es).i = s.i := rfl
@[simp] theorem State.withAgenda_pc (es : List Event) : (s.withAgenda es).pc = s.pc := rfl
@[simp] theorem State.withAgenda_sp (es : List Event) : (s.withAgenda es).sp = s.sp := rfl
@[simp] theorem State.withAgenda_dt (es : List Event) : (s.withAgenda es).dt = s.dt := rfl
@[simp] theorem State.withAgenda_st (es : List Event) : (s.withAgenda es).st = s.st := rfl
@[simp] theorem State.withAgenda_run (es : List Event) : (s.withAgenda es).run = s.run := rfl
@[simp] theorem State.withAgenda_haltCause (es : List Event) :
    (s.withAgenda es).haltCause = s.haltCause := rfl
@[simp] theorem State.withAgenda_ir (es : List Event) : (s.withAgenda es).ir = s.ir := rfl
@[simp] theorem State.withAgenda_waitActive (es : List Event) :
    (s.withAgenda es).waitActive = s.waitActive := rfl
@[simp] theorem State.withAgenda_waitReg (es : List Event) :
    (s.withAgenda es).waitReg = s.waitReg := rfl
@[simp] theorem State.withAgenda_mem (es : List Event) : (s.withAgenda es).mem = s.mem := rfl
@[simp] theorem State.withAgenda_pix (es : List Event) : (s.withAgenda es).pix = s.pix := rfl
@[simp] theorem State.withAgenda_beep (es : List Event) : (s.withAgenda es).beep = s.beep := rfl
@[simp] theorem State.withAgenda_queries (es : List Event) :
    (s.withAgenda es).queries = s.queries := rfl
@[simp] theorem State.withAgenda_trace (es : List Event) :
    (s.withAgenda es).trace = s.trace := rfl
@[simp] theorem State.withAgenda_agenda (es : List Event) : (s.withAgenda es).agenda = es := rfl
@[simp] theorem State.withAgenda_hostReply (es : List Event) :
    (s.withAgenda es).hostReply = s.hostReply := rfl

/-! ### `endWait` -/

@[simp] theorem State.endWait_v : s.endWait.v = s.v := rfl
@[simp] theorem State.endWait_i : s.endWait.i = s.i := rfl
@[simp] theorem State.endWait_pc : s.endWait.pc = s.pc := rfl
@[simp] theorem State.endWait_sp : s.endWait.sp = s.sp := rfl
@[simp] theorem State.endWait_dt : s.endWait.dt = s.dt := rfl
@[simp] theorem State.endWait_st : s.endWait.st = s.st := rfl
@[simp] theorem State.endWait_run : s.endWait.run = s.run := rfl
@[simp] theorem State.endWait_haltCause : s.endWait.haltCause = s.haltCause := rfl
@[simp] theorem State.endWait_ir : s.endWait.ir = s.ir := rfl
@[simp] theorem State.endWait_waitActive : s.endWait.waitActive = false := rfl
@[simp] theorem State.endWait_waitReg : s.endWait.waitReg = s.waitReg := rfl
@[simp] theorem State.endWait_mem : s.endWait.mem = s.mem := rfl
@[simp] theorem State.endWait_pix : s.endWait.pix = s.pix := rfl
@[simp] theorem State.endWait_beep : s.endWait.beep = s.beep := rfl
@[simp] theorem State.endWait_queries : s.endWait.queries = s.queries := rfl
@[simp] theorem State.endWait_trace : s.endWait.trace = s.trace := rfl
@[simp] theorem State.endWait_agenda : s.endWait.agenda = s.agenda := rfl
@[simp] theorem State.endWait_hostReply : s.endWait.hostReply = s.hostReply := rfl

/-! ### `answer` -/

@[simp] theorem State.answer_v (r : HostReply) : (s.answer r).v = s.v := rfl
@[simp] theorem State.answer_i (r : HostReply) : (s.answer r).i = s.i := rfl
@[simp] theorem State.answer_pc (r : HostReply) : (s.answer r).pc = s.pc := rfl
@[simp] theorem State.answer_sp (r : HostReply) : (s.answer r).sp = s.sp := rfl
@[simp] theorem State.answer_dt (r : HostReply) : (s.answer r).dt = s.dt := rfl
@[simp] theorem State.answer_st (r : HostReply) : (s.answer r).st = s.st := rfl
@[simp] theorem State.answer_run (r : HostReply) : (s.answer r).run = s.run := rfl
@[simp] theorem State.answer_haltCause (r : HostReply) :
    (s.answer r).haltCause = s.haltCause := rfl
@[simp] theorem State.answer_ir (r : HostReply) : (s.answer r).ir = s.ir := rfl
@[simp] theorem State.answer_waitActive (r : HostReply) :
    (s.answer r).waitActive = s.waitActive := rfl
@[simp] theorem State.answer_waitReg (r : HostReply) : (s.answer r).waitReg = s.waitReg := rfl
@[simp] theorem State.answer_mem (r : HostReply) : (s.answer r).mem = s.mem := rfl
@[simp] theorem State.answer_pix (r : HostReply) : (s.answer r).pix = s.pix := rfl
@[simp] theorem State.answer_beep (r : HostReply) : (s.answer r).beep = s.beep := rfl
@[simp] theorem State.answer_queries (r : HostReply) : (s.answer r).queries = s.queries := rfl
@[simp] theorem State.answer_trace (r : HostReply) : (s.answer r).trace = s.trace := rfl
@[simp] theorem State.answer_agenda (r : HostReply) : (s.answer r).agenda = s.agenda := rfl
@[simp] theorem State.answer_hostReply (r : HostReply) : (s.answer r).hostReply = some r := rfl

/-! ### `hostStop` -/

@[simp] theorem State.hostStop_v : s.hostStop.v = s.v := rfl
@[simp] theorem State.hostStop_i : s.hostStop.i = s.i := rfl
@[simp] theorem State.hostStop_pc : s.hostStop.pc = s.pc := rfl
@[simp] theorem State.hostStop_sp : s.hostStop.sp = s.sp := rfl
@[simp] theorem State.hostStop_dt : s.hostStop.dt = s.dt := rfl
@[simp] theorem State.hostStop_st : s.hostStop.st = s.st := rfl
@[simp] theorem State.hostStop_run : s.hostStop.run = false := rfl
@[simp] theorem State.hostStop_haltCause : s.hostStop.haltCause = s.haltCause := rfl
@[simp] theorem State.hostStop_ir : s.hostStop.ir = s.ir := rfl
@[simp] theorem State.hostStop_waitActive : s.hostStop.waitActive = false := rfl
@[simp] theorem State.hostStop_waitReg : s.hostStop.waitReg = s.waitReg := rfl
@[simp] theorem State.hostStop_mem : s.hostStop.mem = s.mem := rfl
@[simp] theorem State.hostStop_pix : s.hostStop.pix = s.pix := rfl
@[simp] theorem State.hostStop_beep : s.hostStop.beep = s.beep := rfl
@[simp] theorem State.hostStop_queries : s.hostStop.queries = s.queries := rfl
@[simp] theorem State.hostStop_trace : s.hostStop.trace = s.trace := rfl
@[simp] theorem State.hostStop_agenda : s.hostStop.agenda = s.agenda := rfl
@[simp] theorem State.hostStop_hostReply : s.hostStop.hostReply = s.hostReply := rfl

/-! ### `hostReset` -/

@[simp] theorem State.hostReset_v : s.hostReset.v = Vector.replicate 16 0 := rfl
@[simp] theorem State.hostReset_i : s.hostReset.i = 0 := rfl
@[simp] theorem State.hostReset_pc : s.hostReset.pc = 0x200 := rfl
@[simp] theorem State.hostReset_sp : s.hostReset.sp = Config.stackOrigin := rfl
@[simp] theorem State.hostReset_dt : s.hostReset.dt = 0 := rfl
@[simp] theorem State.hostReset_st : s.hostReset.st = 0 := rfl
@[simp] theorem State.hostReset_run : s.hostReset.run = false := rfl
@[simp] theorem State.hostReset_haltCause : s.hostReset.haltCause = .none := rfl
@[simp] theorem State.hostReset_ir : s.hostReset.ir = s.ir := rfl
@[simp] theorem State.hostReset_waitActive : s.hostReset.waitActive = false := rfl
@[simp] theorem State.hostReset_waitReg : s.hostReset.waitReg = s.waitReg := rfl
@[simp] theorem State.hostReset_mem : s.hostReset.mem = s.mem := rfl
@[simp] theorem State.hostReset_pix : s.hostReset.pix = s.pix := rfl
@[simp] theorem State.hostReset_beep : s.hostReset.beep = s.beep := rfl
@[simp] theorem State.hostReset_queries : s.hostReset.queries = s.queries := rfl
@[simp] theorem State.hostReset_trace : s.hostReset.trace = s.trace := rfl
@[simp] theorem State.hostReset_agenda : s.hostReset.agenda = s.agenda := rfl
@[simp] theorem State.hostReset_hostReply : s.hostReset.hostReply = s.hostReply := rfl

end Sys2Proof.Machine
end

