-- ==== Sys2Proof/Laws/Memory.lean ====
section
/-! SUPPORT. Memory: a read after a write, the canonical form, accesses of several bytes
(20_memory.md). -/

namespace Sys2Proof.Machine

/-! ### One byte -/

theorem Memory.byte_erase_other (m : Memory) {a b : Nat} (h : b ≠ a) :
    (m.erase a).byte b = m.byte b := by
  induction m with
  | nil => rfl
  | cons c m ih =>
    by_cases hc : c.1 = a
    · have hb : ¬ c.1 = b := fun e => h (e.symm.trans hc)
      simpa [Memory.erase, Memory.byte, hc, Ne.symm h] using ih
    · simp only [Memory.erase, List.filter_cons, bne_iff_ne, ne_eq, hc, not_false_eq_true,
        if_true, Memory.byte]
      split
      · rfl
      · exact ih

theorem Memory.byte_erase_same (m : Memory) (a : Nat) : (m.erase a).byte a = Memory.fill a := by
  induction m with
  | nil => rfl
  | cons c m ih =>
    by_cases hc : c.1 = a
    · simpa [Memory.erase, hc] using ih
    · simpa [Memory.erase, hc, Memory.byte] using ih

theorem Memory.byte_insert_other (m : Memory) (c : Host.Cell) {b : Nat} (h : c.1 ≠ b) :
    (m.insert c).byte b = m.byte b := by
  induction m with
  | nil => simp [Memory.insert, Memory.byte, h]
  | cons d m ih =>
    simp only [Memory.insert]
    split
    · simp [Memory.byte, h]
    · simp only [Memory.byte, ih]

theorem Memory.byte_insert_same (m : Memory) (c : Host.Cell) (h : ∀ d ∈ m, d.1 ≠ c.1) :
    (m.insert c).byte c.1 = c.2 := by
  induction m with
  | nil => simp [Memory.insert, Memory.byte]
  | cons d m ih =>
    have hd : d.1 ≠ c.1 := h d (by simp)
    simp only [Memory.insert]
    split
    · simp [Memory.byte]
    · simpa [Memory.byte, hd] using ih fun e he => h e (by simp [he])

/-- A read after a write to the same address gives the byte written (20_memory.md R59). -/
theorem Memory.byte_write_same (m : Memory) {a : Nat} (b : Byte) (h : a < Config.memSize) :
    (m.write a b).byte a = b := by
  simp only [Memory.write, h, if_true]
  split
  · next e => rw [Memory.byte_erase_same, e]
  · exact Memory.byte_insert_same _ (a, b) fun d hd => by
      simpa using (List.mem_filter.mp hd).2

/-- A write leaves every other address alone. -/
theorem Memory.byte_write_other (m : Memory) {a c : Nat} (b : Byte) (h : c ≠ a) :
    (m.write a b).byte c = m.byte c := by
  simp only [Memory.write]
  split
  · split
    · exact Memory.byte_erase_other m h
    · rw [Memory.byte_insert_other _ _ fun e => h e.symm, Memory.byte_erase_other m h]
  · rfl

/-! ### Several bytes -/

/-- Addresses outside the bytes written are left alone. -/
theorem Memory.byte_writeBytes_outside (bs : List Byte) (m : Memory) (a c : Nat)
    (h : c < a ∨ a + bs.length ≤ c) : (m.writeBytes a bs).byte c = m.byte c := by
  induction bs generalizing m a with
  | nil => rfl
  | cons b bs ih =>
    simp only [List.length_cons] at h
    rw [Memory.writeBytes, ih _ _ (by omega), Memory.byte_write_other _ _ (by omega)]

/-- The `k`-th byte written is read back, wherever the bytes lie within memory. -/
theorem Memory.byte_writeBytes_inside (bs : List Byte) (m : Memory) (a k : Nat)
    (hk : k < bs.length) (h : a + bs.length ≤ Config.memSize) :
    (m.writeBytes a bs).byte (a + k) = bs[k] := by
  induction bs generalizing m a k with
  | nil => simp at hk
  | cons b bs ih =>
    simp only [List.length_cons] at h hk
    cases k with
    | zero =>
      rw [Memory.writeBytes, Memory.byte_writeBytes_outside _ _ _ _ (by omega), Nat.add_zero,
        Memory.byte_write_same _ _ (by omega), List.getElem_cons_zero]
    | succ k =>
      have := ih (m.write a b) (a + 1) k (by omega) (by omega)
      rw [Memory.writeBytes, List.getElem_cons_succ, ← this]
      congr 1
      omega

/-! ### The canonical form -/

theorem Memory.mem_insert {m : Memory} {c d : Host.Cell} : d ∈ m.insert c ↔ d = c ∨ d ∈ m := by
  induction m with
  | nil => simp [Memory.insert]
  | cons e m ih =>
    simp only [Memory.insert]
    split
    · simp
    · simp only [List.mem_cons, ih]
      tauto

theorem Memory.insert_sorted {m : Memory} {c : Host.Cell}
    (hm : m.Pairwise fun d e => d.1 < e.1) (h : ∀ d ∈ m, d.1 ≠ c.1) :
    (m.insert c).Pairwise fun d e => d.1 < e.1 := by
  induction m with
  | nil => simp [Memory.insert]
  | cons d m ih =>
    obtain ⟨hd, hm⟩ := List.pairwise_cons.mp hm
    have hne : d.1 ≠ c.1 := h d (by simp)
    simp only [Memory.insert]
    split
    · next hlt =>
      refine List.pairwise_cons.mpr ⟨fun e he => ?_, List.pairwise_cons.mpr ⟨hd, hm⟩⟩
      rcases List.mem_cons.mp he with rfl | he
      · exact hlt
      · exact Nat.lt_trans hlt (hd e he)
    · next hlt =>
      refine List.pairwise_cons.mpr ⟨fun e he => ?_, ih hm fun e he => h e (by simp [he])⟩
      rcases Memory.mem_insert.mp he with rfl | he
      · omega
      · exact hd e he

/-- A write keeps the canonical form. -/
theorem Memory.write_wf {m : Memory} (a : Nat) (b : Byte) (h : m.wf) : (m.write a b).wf := by
  obtain ⟨hs, hc⟩ := h
  have hes : (m.erase a).Pairwise fun d e => d.1 < e.1 := hs.filter _
  have hec : ∀ d ∈ m.erase a, d.1 < Config.memSize ∧ d.2 ≠ Memory.fill d.1 :=
    fun d hd => hc d (List.mem_filter.mp hd).1
  simp only [Memory.write]
  split
  · next ha =>
    split
    · exact ⟨hes, hec⟩
    · next hb =>
      refine ⟨Memory.insert_sorted hes fun d hd => by simpa using (List.mem_filter.mp hd).2,
        fun d hd => ?_⟩
      rcases Memory.mem_insert.mp hd with rfl | hd
      · exact ⟨ha, hb⟩
      · exact hec d hd
  · exact ⟨hs, hc⟩

/-- Writing several bytes keeps the canonical form. -/
theorem Memory.writeBytes_wf (bs : List Byte) {m : Memory} (a : Nat) (h : m.wf) :
    (m.writeBytes a bs).wf := by
  induction bs generalizing m a with
  | nil => exact h
  | cons b bs ih => exact ih (a + 1) (Memory.write_wf a b h)

/-- The memory of the reset state is in the canonical form. -/
theorem reset_mem_wf : State.reset.mem.wf := by decide

/-! ### Reading -/

theorem inRange_iff (a len : Nat) : inRange a len = true ↔ len = 0 ∨ a + len ≤ 0x1000 := by
  exact decide_eq_true_iff

theorem State.readByte_eq (s : State) {a : Nat} (h : a < 0x1000) :
    s.readByte a = some (s.mem.byte a) := by
  simp only [State.readByte, (inRange_iff a 1).mpr (.inr (by omega)), if_true]

/-- A byte read depends on the memory alone. -/
theorem State.readByte_congr {s t : State} {a : Nat} (h : t.mem.byte a = s.mem.byte a) :
    t.readByte a = s.readByte a := by
  simp only [State.readByte, h]

/-- The two bytes of a word, put together again, are the word. -/
@[simp] theorem wordOfBytes_high_low (w : Word) : wordOfBytes (highByte w) (lowByte w) = w := by
  apply BitVec.eq_of_toNat_eq
  have := w.isLt
  simp only [wordOfBytes, highByte, lowByte, BitVec.toNat_cast, BitVec.toNat_append,
    BitVec.extractLsb'_toNat, Nat.shiftRight_eq_div_pow]
  rw [← Nat.shiftLeft_add_eq_or_of_lt (Nat.mod_lt _ (by decide)), Nat.shiftLeft_eq]
  omega

end Sys2Proof.Machine
end

