-- ==== Sys2Proof/Laws/Registers.lean ====
section
/-! SUPPORT. Reading a register after a write (10_state.md R20, R23). -/

namespace Sys2Proof.Machine

@[simp] theorem State.reg_setReg_same (s : State) (x : Reg) (b : Byte) :
    (s.setReg x b).reg x = b := by
  simp [State.reg]

theorem State.reg_setReg_other (s : State) {x r : Reg} (b : Byte) (h : r ≠ x) :
    (s.setReg x b).reg r = s.reg r := by
  have : x.toNat ≠ r.toNat := fun e => h (BitVec.eq_of_toNat_eq e.symm)
  simp [State.reg, this]

theorem State.reg_setReg (s : State) (x r : Reg) (b : Byte) :
    (s.setReg x b).reg r = if r = x then b else s.reg r := by
  split
  · next h => rw [h, State.reg_setReg_same]
  · next h => exact s.reg_setReg_other b h

/-- A register read depends on the registers alone. -/
theorem State.reg_congr {s t : State} (h : t.v = s.v) (r : Reg) : t.reg r = s.reg r := by
  simp [State.reg, h]

/-- A result and a flag: `VF` holds the flag, also where it is the destination (R23). -/
theorem State.reg_setResultFlag (s : State) (x r : Reg) (b : Byte) (f : Bool) :
    (s.setResultFlag x b f).reg r =
      if r = vf then flagByte f else if r = x then b else s.reg r := by
  simp only [State.setResultFlag, State.setFlag, State.reg_setReg]

end Sys2Proof.Machine
end

