-- ==== Sys2Proof/Laws/Frame.lean ====
section
/-! SUPPORT. Frames: what each shared operation leaves unchanged. -/

namespace Sys2Proof.Machine

theorem AgreeOn.refl (s : State) (p : StatePart) : AgreeOn s s p := by cases p <;> rfl

theorem AgreeOn.trans {s t u : State} {p : StatePart} (h : AgreeOn s t p) (k : AgreeOn t u p) :
    AgreeOn s u p := by
  cases p <;> exact Eq.trans k h

theorem Unchanged.refl (s : State) (c : StatePart → Prop) : Unchanged s s c := fun p _ => .refl s p

theorem Unchanged.mono {s t : State} {c d : StatePart → Prop} (h : Unchanged s t c)
    (hcd : ∀ p, c p → d p) : Unchanged s t d := fun p hp => h p fun hc => hp (hcd p hc)

theorem Unchanged.trans {s t u : State} {c : StatePart → Prop} (h : Unchanged s t c)
    (k : Unchanged t u c) : Unchanged s u c := fun p hp => (h p hp).trans (k p hp)

/-- Agreement on a part, written out for a state known field by field. -/
theorem State.setReg_unchanged (s : State) (x : Reg) (b : Byte) :
    Unchanged s (s.setReg x b) (· = .reg x) := by
  intro p hp
  cases p with
  | reg r => exact s.reg_setReg_other b fun e => hp (by rw [e])
  | _ => rfl

theorem State.jumpTo_unchanged (s : State) (w : Word) :
    Unchanged s (s.jumpTo w) (· = .pc) := by
  intro p hp
  cases p <;> first | rfl | exact absurd rfl hp

theorem State.setIndex_unchanged (s : State) (w : Word) :
    Unchanged s (s.setIndex w) (· = .i) := by
  intro p hp
  cases p <;> first | rfl | exact absurd rfl hp

theorem State.skipIf_unchanged (s : State) (c : Bool) :
    Unchanged s (s.skipIf c) (· = .pc) := by
  intro p hp
  cases p <;> first | rfl | exact absurd rfl hp

theorem State.query_unchanged (s : State) (c : PortCall) :
    Unchanged s (s.query c) (fun p => p = .queries ∨ p = .trace) := by
  intro p hp
  cases p <;> first | rfl | exact absurd (.inl rfl) hp | exact absurd (.inr rfl) hp

theorem State.setFlag_unchanged (s : State) (f : Bool) :
    Unchanged s (s.setFlag f) (· = .reg vf) := s.setReg_unchanged vf (flagByte f)

theorem State.answer_unchanged (s : State) (r : HostReply) :
    Unchanged s (s.answer r) (· = .hostReply) := by
  intro p hp
  cases p <;> first | rfl | exact absurd rfl hp

theorem State.withAgenda_unchanged (s : State) (es : List Event) :
    Unchanged s (s.withAgenda es) (· = .agenda) := by
  intro p hp
  cases p <;> first | rfl | exact absurd rfl hp

/-- Taking a fault is all that `Halted` says (60_exceptions.md R203). -/
theorem State.raise_halted (s : State) (c : HaltCause) : Halted s (s.raise c) c := by
  refine ⟨rfl, rfl, fun p hp => ?_⟩
  cases p <;> first | rfl | exact absurd (.inl rfl) hp | exact absurd (.inr rfl) hp

theorem State.setResultFlag_unchanged (s : State) (x : Reg) (b : Byte) (f : Bool) :
    Unchanged s (s.setResultFlag x b f) (fun p => p = .reg x ∨ p = .reg vf) :=
  ((s.setReg_unchanged x b).mono fun _ h => .inl h).trans
    (((s.setReg x b).setReg_unchanged vf (flagByte f)).mono fun _ h => .inr h)

/-- Bytes written change nothing but those bytes. -/
theorem State.writeBytes_unchanged (s : State) (a : Nat) (bs : List Byte) :
    Unchanged s { s with mem := s.mem.writeBytes a bs }
      (fun p => ∃ k, k < bs.length ∧ p = .mem (a + k)) := by
  intro p hp
  cases p with
  | mem c =>
    refine State.readByte_congr (Memory.byte_writeBytes_outside _ _ _ _ ?_)
    by_contra h
    exact hp ⟨c - a, by omega, by congr 1; omega⟩
  | _ => rfl

end Sys2Proof.Machine
end

