-- ==== Sys2Proof/Laws/Plane.lean ====
section
/-! SUPPORT. The plane: a pixel after a toggle, and the canonical form (10_state.md R35). -/

namespace Sys2Proof.Machine

theorem Plane.mem_insert {p : Plane} {q r : Pixel} : r ∈ p.insert q ↔ r = q ∨ r ∈ p := by
  induction p with
  | nil => simp [Plane.insert]
  | cons a p ih =>
    simp only [Plane.insert]
    split
    · simp
    · simp only [List.mem_cons, ih]
      tauto

theorem Plane.lit_iff (p : Plane) (q : Pixel) : p.lit q = true ↔ q ∈ p := by
  simp [Plane.lit]

/-- A toggle inverts its pixel and leaves every other alone. -/
theorem Plane.lit_toggle (p : Plane) (q r : Pixel) :
    (p.toggle q).lit r = if r = q then !p.lit q else p.lit r := by
  rw [Bool.eq_iff_iff]
  simp only [Plane.toggle]
  by_cases hq : q ∈ p
  · have hl : p.lit q = true := (p.lit_iff q).mpr hq
    simp only [hl, if_true, Plane.lit_iff, List.mem_filter, bne_iff_ne]
    split <;> simp_all [Plane.lit_iff]
  · have hl : p.lit q = false := by simpa [← Plane.lit_iff] using hq
    simp only [hl, Bool.false_eq_true, if_false, Plane.lit_iff, Plane.mem_insert]
    split <;> simp_all [Plane.lit_iff]

theorem Pixel.before_iff (q r : Pixel) :
    Pixel.before q r = true ↔ q.1 < r.1 ∨ (q.1 = r.1 ∧ q.2 < r.2) := by
  simp [Pixel.before]

theorem Plane.insert_sorted {p : Plane} {q : Pixel}
    (hp : p.Pairwise fun a b => Pixel.before a b = true) (hq : q ∉ p) :
    (p.insert q).Pairwise fun a b => Pixel.before a b = true := by
  induction p with
  | nil => simp [Plane.insert]
  | cons a p ih =>
    obtain ⟨ha, hp⟩ := List.pairwise_cons.mp hp
    have hne : q ≠ a := fun e => hq (by simp [e])
    simp only [Plane.insert]
    split
    · next hb =>
      refine List.pairwise_cons.mpr ⟨fun b hb' => ?_, List.pairwise_cons.mpr ⟨ha, hp⟩⟩
      rcases List.mem_cons.mp hb' with rfl | hb'
      · exact hb
      · have := ha b hb'
        simp only [Pixel.before_iff] at *
        omega
    · next hb =>
      refine List.pairwise_cons.mpr ⟨fun b hb' => ?_, ih hp fun e => hq (by simp [e])⟩
      rcases Plane.mem_insert.mp hb' with rfl | hb'
      · have : ¬ (b.1 = a.1 ∧ b.2 = a.2) := fun e => hne (Prod.ext e.1 e.2)
        simp only [Pixel.before_iff] at *
        omega
      · exact ha b hb'

/-- A toggle inside the bounds keeps the canonical form. -/
theorem Plane.toggle_wf {w h : Nat} {p : Plane} {q : Pixel} (hp : p.wf w h) (hr : q.1 < h)
    (hc : q.2 < w) : (p.toggle q).wf w h := by
  obtain ⟨hs, hb⟩ := hp
  simp only [Plane.toggle]
  split
  · exact ⟨hs.filter _, fun r hr => hb r (List.mem_filter.mp hr).1⟩
  · next hl =>
    refine ⟨Plane.insert_sorted hs fun hm => hl ((p.lit_iff q).mpr hm), fun r hm => ?_⟩
    rcases Plane.mem_insert.mp hm with rfl | hm
    · exact ⟨hr, hc⟩
    · exact hb r hm

/-- The cleared plane is in its canonical form. -/
theorem Plane.nil_wf (w h : Nat) : Plane.wf w h [] := ⟨List.Pairwise.nil, by simp⟩

/-- Flipping a pixel of a plane of positive size keeps the canonical form. -/
theorem State.flipPixel_wf {s : State} {w h : Nat} (x y : Nat) (hs : s.pix.wf w h) (hw : 0 < w)
    (hh : 0 < h) : (s.flipPixel w h x y).1.pix.wf w h :=
  Plane.toggle_wf hs (Nat.mod_lt _ hh) (Nat.mod_lt _ hw)

end Sys2Proof.Machine
end

