-- ==== Sys2Proof/Laws/Display.lean ====
section
/-! SUPPORT. What drawing a sprite can do: it touches the plane and the record of transactions
only, and it keeps the plane's canonical form (43_display_random.md R161). -/

namespace Sys2Proof.Machine

/-- One column touches the plane and the trace only. -/
theorem drawColumn_eq (w h px y : Nat) (b : Byte) (d : State × Bool) (c : Nat) :
    ∃ p l, (drawColumn w h px y b d c).1 = { d.1 with pix := p, trace := l } := by
  unfold drawColumn
  split
  · exact ⟨_, _, rfl⟩
  · exact ⟨_, _, rfl⟩

/-- A run of columns touches the plane and the trace only. -/
theorem drawColumns_eq (w h px y : Nat) (b : Byte) (cs : List Nat) (d : State × Bool) :
    ∃ p l, (cs.foldl (drawColumn w h px y b) d).1 = { d.1 with pix := p, trace := l } := by
  induction cs generalizing d with
  | nil => exact ⟨_, _, rfl⟩
  | cons c cs ih =>
    obtain ⟨p, l, e⟩ := drawColumn_eq w h px y b d c
    obtain ⟨p', l', e'⟩ := ih (drawColumn w h px y b d c)
    exact ⟨p', l', by rw [List.foldl_cons, e', e]⟩

/-- The rows of a sprite touch the plane and the trace only. -/
theorem State.drawRows_eq (s : State) (w h px py n : Nat) :
    ∃ p l, (s.drawRows w h px py n).1 = { s with pix := p, trace := l } := by
  induction n with
  | zero => exact ⟨_, _, rfl⟩
  | succ n ih =>
    obtain ⟨p, l, e⟩ := ih
    obtain ⟨p', l', e'⟩ := drawColumns_eq w h px (py + n) (s.mem.byte (s.ea n)) (List.range 8)
      (s.drawRows w h px py n)
    exact ⟨p', l', by rw [State.drawRows, drawRow, e', e]⟩

/-- DrawSprite touches the plane, the trace and `VF` only. -/
theorem State.drawSpriteWith_eq (s : State) (w h : Nat) (x y : Reg) (n : RowCount) :
    ∃ p l f, s.drawSpriteWith w h x y n = ({ s with pix := p, trace := l }).setFlag f := by
  obtain ⟨p, l, e⟩ := s.drawRows_eq w h (s.reg x).toNat (s.reg y).toNat n.toNat
  exact ⟨p, l, _, by rw [State.drawSpriteWith, e]⟩

theorem drawColumn_wf {w h : Nat} (hw : 0 < w) (hh : 0 < h) (px y : Nat) (b : Byte)
    {d : State × Bool} (c : Nat) (hd : d.1.pix.wf w h) :
    (drawColumn w h px y b d c).1.pix.wf w h := by
  unfold drawColumn
  split
  · exact State.flipPixel_wf _ _ hd hw hh
  · exact hd

theorem drawColumns_wf {w h : Nat} (hw : 0 < w) (hh : 0 < h) (px y : Nat) (b : Byte)
    (cs : List Nat) {d : State × Bool} (hd : d.1.pix.wf w h) :
    (cs.foldl (drawColumn w h px y b) d).1.pix.wf w h := by
  induction cs generalizing d with
  | nil => exact hd
  | cons c cs ih => exact ih (drawColumn_wf hw hh px y b c hd)

/-- Drawing on a plane of positive size keeps the canonical form. -/
theorem State.drawRows_wf {s : State} {w h : Nat} (hw : 0 < w) (hh : 0 < h) (px py n : Nat)
    (hs : s.pix.wf w h) : (s.drawRows w h px py n).1.pix.wf w h := by
  induction n with
  | zero => exact hs
  | succ n ih => exact drawColumns_wf hw hh px (py + n) _ _ ih

/-- DrawSprite keeps the plane's canonical form. -/
theorem State.drawSpriteWith_wf {s : State} {w h : Nat} (hw : 0 < w) (hh : 0 < h) (x y : Reg)
    (n : RowCount) (hs : s.pix.wf w h) : (s.drawSpriteWith w h x y n).pix.wf w h := by
  exact State.drawRows_wf hw hh _ _ _ hs

theorem displayWidth_pos : 0 < Config.displayWidth := Nat.succ_pos _

theorem displayHeight_pos : 0 < Config.displayHeight := Nat.succ_pos _

end Sys2Proof.Machine
end

