-- ==== Sys2Proof/Laws/Operands.lean ====
section
/-! SUPPORT. What the operand forms give, said once. -/

namespace Sys2Proof.Machine

@[simp] theorem wordOfAddr_toNat (nnn : Addr) : (wordOfAddr nnn).toNat = nnn.toNat := by
  have := nnn.isLt
  simp only [wordOfAddr, BitVec.toNat_setWidth]
  omega

@[simp] theorem wordOfByte_toNat (b : Byte) : (wordOfByte b).toNat = b.toNat := by
  have := b.isLt
  simp only [wordOfByte, BitVec.toNat_setWidth]
  omega

@[simp] theorem State.ea_zero (s : State) : s.ea 0 = s.i.toNat := rfl

theorem State.dataInRange_iff (s : State) (len : Nat) :
    s.dataInRange len = true ↔ len = 0 ∨ s.i.toNat + len ≤ 0x1000 := inRange_iff _ _

/-- A key operand: the register's value where it is at most 15, nothing above
(44_keyboard_timers.md R170). -/
theorem State.keyOperand_cases (s : State) (x : Reg) :
    ((s.reg x).toNat ≤ 15 ∧ s.keyOperand x = some ((s.reg x).setWidth 4)) ∨
    (15 < (s.reg x).toNat ∧ s.keyOperand x = none) := by
  by_cases h : (s.reg x).toNat ≤ 15
  · exact .inl ⟨h, by simp [State.keyOperand, h]⟩
  · exact .inr ⟨by omega, by simp [State.keyOperand, h]⟩

@[simp] theorem State.regsUpTo_length (s : State) (x : Reg) :
    (s.regsUpTo x).length = x.toNat + 1 := by
  have := x.isLt
  simp only [State.regsUpTo, blockLength, List.length_take, Vector.length_toList]
  omega

theorem State.regsUpTo_getElem (s : State) (x : Reg) (k : Nat) (h : k < (s.regsUpTo x).length) :
    (s.regsUpTo x)[k] = s.reg (BitVec.ofNat 4 k) := by
  have hx := x.isLt
  rw [s.regsUpTo_length] at h
  simp only [State.regsUpTo, List.getElem_take, Vector.getElem_toList, State.reg,
    BitVec.toNat_ofNat]
  congr 1
  omega

/-- Loading `n` registers touches nothing but `V[0]`..`V[n-1]`. -/
theorem State.loadRegs_unchanged (s : State) (n : Nat) (hn : n ≤ 16) :
    Unchanged s (s.loadRegs n) (fun p => ∃ r : Reg, r.toNat < n ∧ p = .reg r) := by
  induction n with
  | zero => exact .refl _ _
  | succ n ih =>
    refine ((ih (by omega)).mono ?_).trans
      (((s.loadRegs n).setReg_unchanged (BitVec.ofNat 4 n) _).mono ?_)
    · rintro p ⟨r, hr, rfl⟩
      exact ⟨r, by omega, rfl⟩
    · rintro p rfl
      refine ⟨_, ?_, rfl⟩
      simp only [BitVec.toNat_ofNat]
      omega

/-- Loading registers touches the registers only. -/
theorem State.loadRegs_eq (s : State) (n : Nat) : ∃ v, s.loadRegs n = { s with v := v } := by
  induction n with
  | zero => exact ⟨_, rfl⟩
  | succ n ih =>
    obtain ⟨v, e⟩ := ih
    exact ⟨_, by rw [State.loadRegs, e]; rfl⟩

/-- Each register loaded holds its byte of memory (42_index_memory.md R145). -/
theorem State.reg_loadRegs (s : State) (n : Nat) (hn : n ≤ 16) (r : Reg) (hr : r.toNat < n) :
    (s.loadRegs n).reg r = s.mem.byte (s.ea r.toNat) := by
  induction n with
  | zero => omega
  | succ n ih =>
    rw [State.loadRegs, State.reg_setReg]
    have hlt := r.isLt
    split
    · next e =>
      subst e
      simp only [BitVec.toNat_ofNat]
      congr 2
      omega
    · next e =>
      refine ih (by omega) ?_
      have : r.toNat ≠ n := fun h => e (by rw [← h]; simp)
      omega

end Sys2Proof.Machine
end

