-- ==== Sys2Proof/Laws/Ops.lean ====
section
/-! SUPPORT. What the shared operations over memory and the call stack can do, said once. -/

namespace Sys2Proof.Machine

/-- A word written is its two bytes, the high one first (20_memory.md R51). -/
theorem State.writeWord_eq (s : State) {a : Nat} (w : Word) (h : a + 2 ≤ 0x1000) :
    s.writeWord a w = some { s with mem := s.mem.writeBytes a [highByte w, lowByte w] } := by
  simp only [State.writeWord, (inRange_iff a 2).mpr (.inr h), if_true]

/-- A word read is the two bytes, the high one first (20_memory.md R51). -/
theorem State.readWord_eq (s : State) {a : Nat} (h : a + 2 ≤ 0x1000) :
    s.readWord a = some (wordOfBytes (s.mem.byte a) (s.mem.byte (a + 1))) := by
  simp only [State.readWord, (inRange_iff a 2).mpr (.inr h), if_true]

/-- A push answers the state with the new `SP` and the word at it, or nothing where that would
leave memory. -/
theorem State.push_cases (s : State) (w : Word) :
    ((s.sp - 2).toNat + 2 ≤ 0x1000 ∧
      s.push w = some { s with
        sp := s.sp - 2
        mem := s.mem.writeBytes (s.sp - 2).toNat [highByte w, lowByte w] }) ∨
    (0x1000 < (s.sp - 2).toNat + 2 ∧ s.push w = none) := by
  by_cases h : (s.sp - 2).toNat + 2 ≤ 0x1000
  · exact .inl ⟨h, State.writeWord_eq _ w h⟩
  · refine .inr ⟨by omega, ?_⟩
    have : inRange (s.sp - 2).toNat 2 = false :=
      Bool.eq_false_iff.mpr fun e => h (((inRange_iff _ 2).mp e).resolve_left (by decide))
    simp only [State.push, State.writeWord, this, Bool.false_eq_true, if_false]

/-- A pop answers the word at `SP` and the state with `SP` past it, or nothing where that would
leave memory. -/
theorem State.pop_cases (s : State) :
    (s.sp.toNat + 2 ≤ 0x1000 ∧
      s.pop = some (wordOfBytes (s.mem.byte s.sp.toNat) (s.mem.byte (s.sp.toNat + 1)),
        { s with sp := s.sp + 2 })) ∨
    (0x1000 < s.sp.toNat + 2 ∧ s.pop = none) := by
  by_cases h : s.sp.toNat + 2 ≤ 0x1000
  · exact .inl ⟨h, by simp only [State.pop, s.readWord_eq h]⟩
  · refine .inr ⟨by omega, ?_⟩
    have : inRange s.sp.toNat 2 = false :=
      Bool.eq_false_iff.mpr fun e => h (((inRange_iff _ 2).mp e).resolve_left (by decide))
    simp only [State.pop, State.readWord, this, Bool.false_eq_true, if_false]

/-- A word pushed and read back at the new `SP` is that word. -/
theorem State.readWord_after_write (s : State) {a : Nat} (w : Word) (h : a + 2 ≤ 0x1000) :
    State.readWord { s with mem := s.mem.writeBytes a [highByte w, lowByte w] } a = some w := by
  have hk (k : Nat) (hk : k < 2) :=
    Memory.byte_writeBytes_inside [highByte w, lowByte w] s.mem a k hk h
  rw [State.readWord_eq _ h]
  have h0 := hk 0 (by decide)
  have h1 := hk 1 (by decide)
  simp only [Nat.add_zero, List.getElem_cons_zero, List.getElem_cons_succ] at h0 h1
  rw [h0, h1, wordOfBytes_high_low]

end Sys2Proof.Machine
end

