-- ==== Sys2Proof/Laws/Exec.lean ====
section
/-! SUPPORT. What executing an instruction can do, said once: which fields it can change, by the
kind of instruction. Rules of the whole machine are derived from it. -/

namespace Sys2Proof.Machine

/-- What an instruction leaves, by kind: `Effect i s t` holds of the next states `t` that `i` can
have from `s`. A fault is one of the four causes. -/
inductive Effect (i : Instr) (s : State) : State → Prop where
  | fault (c : HaltCause) (hc : c ≠ .none) : Effect i s (s.raise c)
  | registers (v : Vector Byte 16) : Effect i s { s with v := v }
  | jump (w : Word) : Effect i s { s with pc := w }
  | index (w : Word) (hi : (∃ n, i = .setIRegister n) ∨ (∃ x, i = .addToI x) ∨
      ∃ x, i = .setIToChar x) : Effect i s { s with i := w }
  | push (w : Word) (hi : ∃ n, i = .call n) (h : s.sp ≠ 0xFE0) (hr : (s.sp - 2).toNat + 2 ≤ 0x1000) :
      Effect i s { s with
        sp := s.sp - 2, pc := w
        mem := s.mem.writeBytes (s.sp - 2).toNat [highByte s.pc, lowByte s.pc] }
  | pop (w : Word) (hi : i = .ret) (h : s.sp ≠ 0x1000) (hr : s.sp.toNat + 2 ≤ 0x1000) :
      Effect i s { s with sp := s.sp + 2, pc := w }
  | store (a : Nat) (bs : List Byte) (hi : (∃ x, i = .storeBCD x) ∨ ∃ x, i = .storeRegs x) :
      Effect i s { s with mem := s.mem.writeBytes a bs }
  | clear (hi : i = .clearScreen) : Effect i s s.displayClear
  | draw (p : Plane) (l : List PortCall) (f : Bool) (hi : ∃ x y n, i = .drawSprite x y n)
      (hw : s.pix.wf Config.displayWidth Config.displayHeight →
        p.wf Config.displayWidth Config.displayHeight) :
      Effect i s (({ s with pix := p, trace := l }).setFlag f)
  | random (c : PortCall) (x : Reg) (b : Byte) : Effect i s ((s.query c).setReg x b)
  | keySkip (c : PortCall) (b : Bool) : Effect i s ((s.query c).skipIf b)
  | wait (x : Reg) (hi : i = .waitAndStoreKey x) :
      Effect i s { s with waitReg := x, waitActive := true }
  | delay (b : Byte) (hi : ∃ x, i = .setDelayTimer x) : Effect i s { s with dt := b }
  | silent (hi : ∃ x, i = .setSoundTimer x) : Effect i s { s with st := 0 }
  | sound (b : Byte) (hi : ∃ x, i = .setSoundTimer x) (hb : b ≠ 0) :
      Effect i s ({ s with st := b }).startBeeping

/-- Executing an instruction answers a next state, and that state is one of its effects. -/
theorem exec_effect (i : Instr) (s : State) : ∃ t, exec i s = .next t ∧ Effect i s t := by
  have fault {r : Result} (c : HaltCause) (hc : c ≠ .none) (h : r = .next (s.raise c)) :
      ∃ t, r = .next t ∧ Effect i s t := ⟨_, h, .fault c hc⟩
  cases i with
  | clearScreen => exact ⟨_, rfl, .clear rfl⟩
  | ret =>
    simp only [exec, execRet]
    split
    · exact fault _ (by decide) rfl
    · next h =>
      rcases s.pop_cases with ⟨hr, e⟩ | ⟨-, e⟩ <;> rw [e]
      · exact ⟨_, rfl, .pop _ rfl h hr⟩
      · exact fault _ (by decide) rfl
  | call n =>
    simp only [exec, execCall]
    split
    · exact fault _ (by decide) rfl
    · next h =>
      rcases s.push_cases s.pc with ⟨hr, e⟩ | ⟨-, e⟩ <;> rw [e]
      · exact ⟨_, rfl, .push _ ⟨n, rfl⟩ h hr⟩
      · exact fault _ (by decide) rfl
  | jump | jumpV0 | skipValueEq | skipValueNe | skipRegEq | skipRegNe => exact ⟨_, rfl, .jump _⟩
  | setByValue | addToRegister | setReg | orReg | andReg | xorReg | addReg | subReg | shiftRight
  | subRegReverse | shiftLeft | storeDelayTimer => exact ⟨_, rfl, .registers _⟩
  | setIRegister n => exact ⟨_, rfl, .index _ (.inl ⟨n, rfl⟩)⟩
  | addToI x => exact ⟨_, rfl, .index _ (.inr (.inl ⟨x, rfl⟩))⟩
  | setIToChar x => exact ⟨_, rfl, .index _ (.inr (.inr ⟨x, rfl⟩))⟩
  | setRandom x kk => exact ⟨_, rfl, .random _ _ _⟩
  | drawSprite x y n =>
    simp only [exec, execDrawSprite]
    split
    · refine ⟨_, rfl, ?_⟩
      obtain ⟨p, l, f, e⟩ :=
        s.drawSpriteWith_eq Config.displayWidth Config.displayHeight x y n
      rw [e]
      refine .draw p l f ⟨x, y, n, rfl⟩ fun hs => ?_
      have := State.drawSpriteWith_wf displayWidth_pos displayHeight_pos x y n hs
      rw [e] at this
      exact this
    · exact fault _ (by decide) rfl
  | skipKeyPressed x =>
    simp only [exec, execSkipKeyPressed]
    rcases s.keyOperand_cases x with ⟨-, e⟩ | ⟨-, e⟩ <;> rw [e]
    · exact ⟨_, rfl, .keySkip _ _⟩
    · exact fault _ (by decide) rfl
  | skipKeyNotPressed x =>
    simp only [exec, execSkipKeyNotPressed]
    rcases s.keyOperand_cases x with ⟨-, e⟩ | ⟨-, e⟩ <;> rw [e]
    · exact ⟨_, rfl, .keySkip _ _⟩
    · exact fault _ (by decide) rfl
  | waitAndStoreKey x => exact ⟨_, rfl, .wait x rfl⟩
  | setDelayTimer x => exact ⟨_, rfl, .delay _ ⟨x, rfl⟩⟩
  | setSoundTimer x =>
    simp only [exec, execSetSoundTimer]
    refine ⟨_, rfl, ?_⟩
    split
    · next h =>
      rw [h]
      exact .silent ⟨x, rfl⟩
    · next h => exact .sound _ ⟨x, rfl⟩ h
  | storeBCD x =>
    simp only [exec, execStoreBCD]
    split
    · exact ⟨_, rfl, .store _ _ (.inl ⟨x, rfl⟩)⟩
    · exact fault _ (by decide) rfl
  | storeRegs x =>
    simp only [exec, execStoreRegs]
    split
    · exact ⟨_, rfl, .store _ _ (.inr ⟨x, rfl⟩)⟩
    · exact fault _ (by decide) rfl
  | fillRegs x =>
    simp only [exec, execFillRegs]
    split
    · refine ⟨_, rfl, ?_⟩
      obtain ⟨v, e⟩ := s.loadRegs_eq (blockLength x)
      rw [e]
      exact .registers v
    · exact fault _ (by decide) rfl

/-- The inversion of `exec`. -/
theorem effect_of_exec {i : Instr} {s t : State} (h : exec i s = .next t) : Effect i s t := by
  obtain ⟨t', e, he⟩ := exec_effect i s
  rw [h] at e
  rw [Host.Outcome.next.inj e]
  exact he

end Sys2Proof.Machine
end

