-- ==== Sys2Proof/Laws/Lifecycle.lean ====
section
/-! SUPPORT. What a host command can do, said once (60_exceptions.md R206 to R209, R226). -/

namespace Sys2Proof.Machine

theorem State.hostRun_eq (s : State) : s.hostRun = { s with run := true } := by
  unfold State.hostRun
  split
  · next h =>
    cases s
    cases h
    rfl
  · rfl

/-- LoadRom either fails and changes nothing but the reply, or writes the whole ROM. -/
theorem State.loadRom_cases (s : State) (rom : List Byte) :
    (rom.length > 3584 ∧ s.loadRom rom = s.answer .loadFailure) ∨
    (rom.length ≤ 3584 ∧ s.loadRom rom =
      { s with mem := s.mem.writeBytes 0x200 rom, hostReply := some .loaded }) := by
  unfold State.loadRom
  split
  · next h => exact .inl ⟨h, rfl⟩
  · next h => exact .inr ⟨Nat.le_of_not_lt h, rfl⟩

/-- The inversion of a host command that is not refused. -/
theorem hostCommand_cases {c : HostCommand} {s t : State} (h : hostCommand c s = .settled t) :
    (c = .run ∧ t = { s with run := true }) ∨
    (c = .stop ∧ t = s.hostStop.answer .stopped) ∨
    (c = .reset ∧ t = s.hostReset.answer .resetDone) ∨
    (∃ rom, c = .loadRom rom ∧ s.run = false ∧ t = s.loadRom rom) ∨
    ∃ r, t = s.answer r := by
  cases c with
  | run =>
    cases h
    exact .inl ⟨rfl, s.hostRun_eq⟩
  | stop =>
    cases h
    exact .inr (.inl ⟨rfl, rfl⟩)
  | reset =>
    cases h
    exact .inr (.inr (.inl ⟨rfl, rfl⟩))
  | loadRom rom =>
    cases hr : s.run <;> simp only [hostCommand, hr] at h <;> cases h
    exact .inr (.inr (.inr (.inl ⟨rom, rfl, rfl, rfl⟩)))
  | readStatus =>
    cases h
    exact .inr (.inr (.inr (.inr ⟨_, rfl⟩)))
  | inspect what =>
    cases hr : s.run <;> simp only [hostCommand, hr] at h <;> cases h
    exact .inr (.inr (.inr (.inr ⟨_, rfl⟩)))

end Sys2Proof.Machine
end

