-- ==== Sys2Proof/Laws/WellFormed.lean ====
section
/-! SUPPORT. Well-formedness: every instruction is, and exactly the well-formed written forms
assemble (30_encoding.md R89, R91). -/

namespace Sys2Proof.Laws

/-- Every instruction is well-formed: its fields have their exact widths. -/
theorem instr_wellFormed (i : Instr) : i.wellFormed = true := by
  cases i <;> simp only [Instr.wellFormed, Instr.written, Written.wellFormed, Instr.mnemonic,
    Instr.operands, Mnemonic.format, Format.fits, Bool.and_eq_true, decide_eq_true_eq]
  all_goals first
    | exact BitVec.isLt _
    | exact ⟨BitVec.isLt _, BitVec.isLt _⟩
    | exact ⟨⟨BitVec.isLt _, BitVec.isLt _⟩, BitVec.isLt _⟩

/-- A written form assembles exactly when it is well-formed. -/
theorem assemble_isSome (t : Written) : t.assemble.isSome = t.wellFormed := by
  simp only [Written.assemble]
  split <;> simp_all

end Sys2Proof.Laws
end

