-- ==== Sys2Proof/Laws/PerInstr.lean ====
section
/-! SUPPORT. Statements about every instruction as syntax, one lemma for each constructor.
Family `WrittenForm`: the written form of an instruction assembles to it (30_encoding.md R91). -/

namespace Sys2Proof.Laws

/-- The written form of the instruction is accepted and stands for the instruction. -/
def WrittenForm.Statement (i : Instr) : Prop := i.written.assemble = some i

/-- The form is accepted; what it stands for is then a matter of its operands. -/
theorem writtenForm_of_build (i : Instr) (h : i.written.build = i) : WrittenForm.Statement i := by
  have hw : i.written.wellFormed = true := instr_wellFormed i
  simp only [WrittenForm.Statement, Written.assemble, hw, if_true, h]

theorem WrittenForm.clearScreen : WrittenForm.Statement .clearScreen :=
  writtenForm_of_build _ rfl

theorem WrittenForm.ret : WrittenForm.Statement .ret :=
  writtenForm_of_build _ rfl

theorem WrittenForm.jump (nnn : Addr) : WrittenForm.Statement (.jump nnn) :=
  writtenForm_of_build _ (by
    simp [Written.build, Instr.written, Instr.mnemonic, Instr.operands, Operand.numberAt])

theorem WrittenForm.call (nnn : Addr) : WrittenForm.Statement (.call nnn) :=
  writtenForm_of_build _ (by
    simp [Written.build, Instr.written, Instr.mnemonic, Instr.operands, Operand.numberAt])

theorem WrittenForm.skipValueEq (x : Reg) (kk : Byte) : WrittenForm.Statement (.skipValueEq x kk) :=
  writtenForm_of_build _ (by
    simp [Written.build, Instr.written, Instr.mnemonic, Instr.operands, Operand.numberAt])

theorem WrittenForm.skipValueNe (x : Reg) (kk : Byte) : WrittenForm.Statement (.skipValueNe x kk) :=
  writtenForm_of_build _ (by
    simp [Written.build, Instr.written, Instr.mnemonic, Instr.operands, Operand.numberAt])

theorem WrittenForm.skipRegEq (x : Reg) (y : Reg) : WrittenForm.Statement (.skipRegEq x y) :=
  writtenForm_of_build _ (by
    simp [Written.build, Instr.written, Instr.mnemonic, Instr.operands, Operand.numberAt])

theorem WrittenForm.setByValue (x : Reg) (kk : Byte) : WrittenForm.Statement (.setByValue x kk) :=
  writtenForm_of_build _ (by
    simp [Written.build, Instr.written, Instr.mnemonic, Instr.operands, Operand.numberAt])

theorem WrittenForm.addToRegister (x : Reg) (kk : Byte) : WrittenForm.Statement (.addToRegister x kk) :=
  writtenForm_of_build _ (by
    simp [Written.build, Instr.written, Instr.mnemonic, Instr.operands, Operand.numberAt])

theorem WrittenForm.setReg (x : Reg) (y : Reg) : WrittenForm.Statement (.setReg x y) :=
  writtenForm_of_build _ (by
    simp [Written.build, Instr.written, Instr.mnemonic, Instr.operands, Operand.numberAt])

theorem WrittenForm.orReg (x : Reg) (y : Reg) : WrittenForm.Statement (.orReg x y) :=
  writtenForm_of_build _ (by
    simp [Written.build, Instr.written, Instr.mnemonic, Instr.operands, Operand.numberAt])

theorem WrittenForm.andReg (x : Reg) (y : Reg) : WrittenForm.Statement (.andReg x y) :=
  writtenForm_of_build _ (by
    simp [Written.build, Instr.written, Instr.mnemonic, Instr.operands, Operand.numberAt])

theorem WrittenForm.xorReg (x : Reg) (y : Reg) : WrittenForm.Statement (.xorReg x y) :=
  writtenForm_of_build _ (by
    simp [Written.build, Instr.written, Instr.mnemonic, Instr.operands, Operand.numberAt])

theorem WrittenForm.addReg (x : Reg) (y : Reg) : WrittenForm.Statement (.addReg x y) :=
  writtenForm_of_build _ (by
    simp [Written.build, Instr.written, Instr.mnemonic, Instr.operands, Operand.numberAt])

theorem WrittenForm.subReg (x : Reg) (y : Reg) : WrittenForm.Statement (.subReg x y) :=
  writtenForm_of_build _ (by
    simp [Written.build, Instr.written, Instr.mnemonic, Instr.operands, Operand.numberAt])

theorem WrittenForm.shiftRight (x : Reg) (y : Reg) : WrittenForm.Statement (.shiftRight x y) :=
  writtenForm_of_build _ (by
    simp [Written.build, Instr.written, Instr.mnemonic, Instr.operands, Operand.numberAt])

theorem WrittenForm.subRegReverse (x : Reg) (y : Reg) : WrittenForm.Statement (.subRegReverse x y) :=
  writtenForm_of_build _ (by
    simp [Written.build, Instr.written, Instr.mnemonic, Instr.operands, Operand.numberAt])

theorem WrittenForm.shiftLeft (x : Reg) (y : Reg) : WrittenForm.Statement (.shiftLeft x y) :=
  writtenForm_of_build _ (by
    simp [Written.build, Instr.written, Instr.mnemonic, Instr.operands, Operand.numberAt])

theorem WrittenForm.skipRegNe (x : Reg) (y : Reg) : WrittenForm.Statement (.skipRegNe x y) :=
  writtenForm_of_build _ (by
    simp [Written.build, Instr.written, Instr.mnemonic, Instr.operands, Operand.numberAt])

theorem WrittenForm.setIRegister (nnn : Addr) : WrittenForm.Statement (.setIRegister nnn) :=
  writtenForm_of_build _ (by
    simp [Written.build, Instr.written, Instr.mnemonic, Instr.operands, Operand.numberAt])

theorem WrittenForm.jumpV0 (nnn : Addr) : WrittenForm.Statement (.jumpV0 nnn) :=
  writtenForm_of_build _ (by
    simp [Written.build, Instr.written, Instr.mnemonic, Instr.operands, Operand.numberAt])

theorem WrittenForm.setRandom (x : Reg) (kk : Byte) : WrittenForm.Statement (.setRandom x kk) :=
  writtenForm_of_build _ (by
    simp [Written.build, Instr.written, Instr.mnemonic, Instr.operands, Operand.numberAt])

theorem WrittenForm.drawSprite (x : Reg) (y : Reg) (n : RowCount) : WrittenForm.Statement (.drawSprite x y n) :=
  writtenForm_of_build _ (by
    simp [Written.build, Instr.written, Instr.mnemonic, Instr.operands, Operand.numberAt])

theorem WrittenForm.skipKeyPressed (x : Reg) : WrittenForm.Statement (.skipKeyPressed x) :=
  writtenForm_of_build _ (by
    simp [Written.build, Instr.written, Instr.mnemonic, Instr.operands, Operand.numberAt])

theorem WrittenForm.skipKeyNotPressed (x : Reg) : WrittenForm.Statement (.skipKeyNotPressed x) :=
  writtenForm_of_build _ (by
    simp [Written.build, Instr.written, Instr.mnemonic, Instr.operands, Operand.numberAt])

theorem WrittenForm.storeDelayTimer (x : Reg) : WrittenForm.Statement (.storeDelayTimer x) :=
  writtenForm_of_build _ (by
    simp [Written.build, Instr.written, Instr.mnemonic, Instr.operands, Operand.numberAt])

theorem WrittenForm.waitAndStoreKey (x : Reg) : WrittenForm.Statement (.waitAndStoreKey x) :=
  writtenForm_of_build _ (by
    simp [Written.build, Instr.written, Instr.mnemonic, Instr.operands, Operand.numberAt])

theorem WrittenForm.setDelayTimer (x : Reg) : WrittenForm.Statement (.setDelayTimer x) :=
  writtenForm_of_build _ (by
    simp [Written.build, Instr.written, Instr.mnemonic, Instr.operands, Operand.numberAt])

theorem WrittenForm.setSoundTimer (x : Reg) : WrittenForm.Statement (.setSoundTimer x) :=
  writtenForm_of_build _ (by
    simp [Written.build, Instr.written, Instr.mnemonic, Instr.operands, Operand.numberAt])

theorem WrittenForm.addToI (x : Reg) : WrittenForm.Statement (.addToI x) :=
  writtenForm_of_build _ (by
    simp [Written.build, Instr.written, Instr.mnemonic, Instr.operands, Operand.numberAt])

theorem WrittenForm.setIToChar (x : Reg) : WrittenForm.Statement (.setIToChar x) :=
  writtenForm_of_build _ (by
    simp [Written.build, Instr.written, Instr.mnemonic, Instr.operands, Operand.numberAt])

theorem WrittenForm.storeBCD (x : Reg) : WrittenForm.Statement (.storeBCD x) :=
  writtenForm_of_build _ (by
    simp [Written.build, Instr.written, Instr.mnemonic, Instr.operands, Operand.numberAt])

theorem WrittenForm.storeRegs (x : Reg) : WrittenForm.Statement (.storeRegs x) :=
  writtenForm_of_build _ (by
    simp [Written.build, Instr.written, Instr.mnemonic, Instr.operands, Operand.numberAt])

theorem WrittenForm.fillRegs (x : Reg) : WrittenForm.Statement (.fillRegs x) :=
  writtenForm_of_build _ (by
    simp [Written.build, Instr.written, Instr.mnemonic, Instr.operands, Operand.numberAt])

end Sys2Proof.Laws
end

