-- ==== Sys2Proof/Laws/Step.lean ====
section
/-! SUPPORT. What a step can do, said once: the move of each agent, and the inversion of a step
(60_exceptions.md R205; 20_memory.md R61). -/

namespace Sys2Proof.Machine

theorem fetchable_iff (s : State) : s.fetchable = true ↔ s.pc.toNat + 2 ≤ 0x1000 := by
  rw [State.fetchable, inRange_iff]
  omega

/-- On the instruction engine's turn the next move is the engine's, its event taken off the
agenda. -/
theorem nextMove_of_engineTurn {s : State} (h : EngineTurn s) :
    s.nextMove = (s.withAgenda s.agenda.tail).engineMove := by
  unfold State.nextMove
  rcases h with h | h
  · cases s
    subst h
    rfl
  · split
    · next e => simp [e] at h
    · next e rest he =>
      rw [he] at h
      cases h
      rw [he]
      rfl

/-- With an event at the head of the agenda the next move is that event's. -/
theorem nextMove_of_event {s : State} {e : Event} {rest : List Event} (h : s.agenda = e :: rest) :
    s.nextMove = (s.withAgenda rest).moveOn e := by
  unfold State.nextMove
  rw [h]

/-- Everything a step of the instruction engine can be (60_exceptions.md R205). -/
theorem engineMove_cases (s : State) :
    (s.run = false ∧ s.engineMove = .settled s) ∨
    (s.run = true ∧ s.waitActive = true ∧ s.engineMove = .settled s.poll) ∨
    (s.run = true ∧ s.waitActive = false ∧ 0xFFE < s.pc.toNat ∧
      s.engineMove = .settled (s.raise .accessFault)) ∨
    (s.run = true ∧ s.waitActive = false ∧ s.pc.toNat ≤ 0xFFE ∧
      ((∃ r, decodeWord s.fetched.ir = .reject r ∧
          s.engineMove = .settled (s.fetched.raise .decodeFailure)) ∨
        ∃ i, decodeWord s.fetched.ir = .ok i ∧ s.engineMove = .execute i s.fetched)) := by
  unfold State.engineMove
  cases hr : s.run
  · exact .inl ⟨rfl, rfl⟩
  · cases hw : s.waitActive
    · refine .inr (.inr ?_)
      unfold State.fetchDecode
      cases hf : s.fetchable
      · refine .inl ⟨rfl, rfl, ?_, rfl⟩
        have := mt (fetchable_iff s).mpr (by simp [hf])
        omega
      · refine .inr ⟨rfl, rfl, ?_, ?_⟩
        · have := (fetchable_iff s).mp hf
          omega
        · cases hd : decodeWord s.fetched.ir with
          | ok i => exact .inr ⟨i, rfl, rfl⟩
          | reject r => exact .inl ⟨r, rfl, rfl⟩
    · exact .inr (.inl ⟨rfl, rfl, rfl⟩)

/-- Whose turn it is: the instruction engine's, the timer engine's, or the host's. -/
theorem turn_cases (s : State) :
    EngineTurn s ∨ (∃ rest, s.agenda = .tick :: rest) ∨
      ∃ c rest, s.agenda = .host c :: rest := by
  cases h : s.agenda with
  | nil => exact .inl (.inl h)
  | cons e rest =>
    cases e with
    | instruction => exact .inl (.inr (by rw [h]; rfl))
    | tick => exact .inr (.inl ⟨rest, rfl⟩)
    | host c => exact .inr (.inr ⟨c, rest, rfl⟩)

theorem step_of_settled {s t : State} (h : s.nextMove = .settled t) : step s = .next t := by
  unfold step
  rw [h]

theorem step_of_execute {s t : State} {i : Instr} (h : s.nextMove = .execute i t) :
    step s = exec i t := by
  unfold step
  rw [h]

theorem step_of_refuse {s : State} {r : Refusal} (h : s.nextMove = .refuse r) :
    step s = .refused r := by
  unfold step
  rw [h]

/-- The inversion of a step: everything a step that answers a next state can have done. `u` is the
state with the event taken off the agenda. -/
theorem step_cases {s t : State} (h : step s = .next t) :
    let u := s.withAgenda s.agenda.tail
    (EngineTurn s ∧
      ((s.run = false ∧ t = u) ∨
       (s.run = true ∧ s.waitActive = true ∧ t = u.poll) ∨
       (s.run = true ∧ s.waitActive = false ∧ 0xFFE < s.pc.toNat ∧ t = u.raise .accessFault) ∨
       (s.run = true ∧ s.waitActive = false ∧ s.pc.toNat ≤ 0xFFE ∧
         t = u.fetched.raise .decodeFailure) ∨
       (s.run = true ∧ s.waitActive = false ∧ s.pc.toNat ≤ 0xFFE ∧
         ∃ i, s.nextMove = .execute i u.fetched ∧ exec i u.fetched = .next t))) ∨
    (s.agenda.head? = some .tick ∧ t = u.tick) ∨
    ∃ c, s.agenda.head? = some (.host c) ∧ hostCommand c u = .settled t := by
  intro u
  rcases turn_cases s with ht | ⟨rest, ht⟩ | ⟨c, rest, ht⟩
  · refine .inl ⟨ht, ?_⟩
    have hn := nextMove_of_engineTurn ht
    have settled {w : State} (hw : u.engineMove = .settled w) : t = w := by
      rw [step_of_settled (hn.trans hw)] at h
      exact (Host.Outcome.next.inj h).symm
    rcases engineMove_cases u with ⟨hr, he⟩ | ⟨hr, hw, he⟩ | ⟨hr, hw, hp, he⟩ | ⟨hr, hw, hp, he⟩
    · exact .inl ⟨hr, settled he⟩
    · exact .inr (.inl ⟨hr, hw, settled he⟩)
    · exact .inr (.inr (.inl ⟨hr, hw, hp, settled he⟩))
    · rcases he with ⟨r, -, he⟩ | ⟨i, -, he⟩
      · exact .inr (.inr (.inr (.inl ⟨hr, hw, hp, settled he⟩)))
      · refine .inr (.inr (.inr (.inr ⟨hr, hw, hp, i, hn.trans he, ?_⟩)))
        rw [← step_of_execute (hn.trans he)]
        exact h
  · refine .inr (.inl ⟨by rw [ht]; rfl, ?_⟩)
    rw [step_of_settled (t := u.tick) (by rw [nextMove_of_event ht]; simp only [u, ht]; rfl)] at h
    exact (Host.Outcome.next.inj h).symm
  · refine .inr (.inr ⟨c, by rw [ht]; rfl, ?_⟩)
    have hn : s.nextMove = hostCommand c u := by
      rw [nextMove_of_event ht]
      simp only [u, ht]
      rfl
    cases hc : hostCommand c u with
    | settled w =>
      rw [step_of_settled (hn.trans hc)] at h
      rw [Host.Outcome.next.inj h]
    | execute i w => cases c <;> simp [hostCommand] at hc <;> split at hc <;> cases hc
    | refuse r =>
      rw [step_of_refuse (hn.trans hc)] at h
      cases h

end Sys2Proof.Machine
end

