-- ==== Sys2Proof/Laws/Timers.lean ====
section
/-! SUPPORT. What a tick and a poll can do, said once (60_exceptions.md R212;
44_keyboard_timers.md R177). -/

namespace Sys2Proof.Machine

/-- While STOPPED a tick is not enabled (60_exceptions.md R213). -/
theorem State.tick_stopped {s : State} (h : s.run = false) : s.tick = s := by
  simp [State.tick, h]

theorem State.tickDelay_eq (s : State) :
    ∃ d : Byte, d.toNat = s.dt.toNat - 1 ∧ s.tickDelay = { s with dt := d } := by
  unfold State.tickDelay
  split
  · next h => exact ⟨s.dt, by rw [h]; rfl, rfl⟩
  · next h =>
    refine ⟨s.dt - 1, ?_, rfl⟩
    have : s.dt.toNat ≠ 0 := fun e => h (BitVec.eq_of_toNat_eq e)
    have := s.dt.isLt
    rw [BitVec.toNat_sub, show (1 : Byte).toNat = 1 from rfl]
    omega

/-- The sound timer's part: down by one, and a stop of the Beeper in the step from 1 to 0. -/
theorem State.tickSound_eq (s : State) :
    ∃ d : Byte, d.toNat = s.st.toNat - 1 ∧
      ((s.st.toNat = 1 ∧ s.tickSound = ({ s with st := d }).stopBeeping) ∨
        (s.st.toNat ≠ 1 ∧ s.tickSound = { s with st := d })) := by
  have hlt := s.st.isLt
  unfold State.tickSound
  split
  · next h => exact ⟨s.st, by rw [h]; rfl, .inr ⟨by rw [h]; decide, rfl⟩⟩
  · next h =>
    have h0 : s.st.toNat ≠ 0 := fun e => h (BitVec.eq_of_toNat_eq e)
    have hd : (s.st - 1).toNat = s.st.toNat - 1 := by
      rw [BitVec.toNat_sub, show (1 : Byte).toNat = 1 from rfl]
      omega
    refine ⟨s.st - 1, hd, ?_⟩
    split
    · next h1 =>
      refine .inl ⟨?_, rfl⟩
      have : (s.st - 1).toNat = 0 := by rw [h1]; rfl
      omega
    · next h1 =>
      refine .inr ⟨fun e => h1 (BitVec.eq_of_toNat_eq ?_), rfl⟩
      rw [hd, e]
      rfl

/-- A tick while RUNNING: each timer down by one and no further; the Beeper is stopped in the step
of the sound timer from 1 to 0, and in no other. -/
theorem State.tick_cases {s : State} (h : s.run = true) :
    ∃ d e : Byte, d.toNat = s.dt.toNat - 1 ∧ e.toNat = s.st.toNat - 1 ∧
      ((s.st.toNat = 1 ∧ s.tick = ({ s with dt := d, st := e }).stopBeeping) ∨
        (s.st.toNat ≠ 1 ∧ s.tick = { s with dt := d, st := e })) := by
  obtain ⟨d, hd, ed⟩ := s.tickDelay_eq
  obtain ⟨e, he, ee⟩ := s.tickDelay.tickSound_eq
  rw [ed] at he ee
  refine ⟨d, e, hd, he, ?_⟩
  simpa [State.tick, h, ed] using ee

/-- A poll: a key ends the wait, any other reply changes nothing but the record of the query. -/
theorem State.pollWith_cases (s : State) (k : BitVec 5) :
    (k.toNat ≤ 15 ∧ s.pollWith k =
      ((s.query (.waitForKey k)).setReg s.waitReg (k.setWidth 8)).endWait) ∨
    (15 < k.toNat ∧ s.pollWith k = s.query (.waitForKey k)) := by
  unfold State.pollWith
  by_cases h : k.toNat ≤ 15
  · exact .inl ⟨h, by simp [h]⟩
  · exact .inr ⟨by omega, by simp [h]⟩

end Sys2Proof.Machine
end

