-- ==== Sys2Proof/Tests/Slice0.lean ====
section
/-! SUPPORT. The model's own tests. Expected values are those of 95_test_vectors.md (named by part
and table) or worked by hand from the rule named. The theorems `witness_…` show that the
hypotheses of each statement of Certificates/Slice0/Obligations.lean can be met together. -/

namespace Sys2Proof.Tests
open Sys2Proof.Machine

/-! ### Written forms (30_encoding.md R91): a well-formed term, and an ill-formed one for each check -/

theorem test_wellformed_accepts :
    (Written.mk .drawSprite [.reg 15, .reg 0, .imm 15]).assemble = some (.drawSprite 15 0 15) ∧
    (Written.mk .jump [.imm 4095]).assemble = some (.jump 0xFFF) ∧
    (Written.mk .setByValue [.reg 0, .imm 5]).assemble = some (.setByValue 0 5) ∧
    (Written.mk .ret []).assemble = some .ret := by decide

theorem test_wellformed_fixed : (Written.mk .clearScreen [.imm 0]).wellFormed = false := by decide

theorem test_wellformed_nnn :
    (Written.mk .jump [.imm 4096]).wellFormed = false ∧
    (Written.mk .call [.reg 1]).wellFormed = false ∧
    (Written.mk .jumpV0 []).wellFormed = false := by decide

theorem test_wellformed_xkk :
    (Written.mk .setByValue [.reg 16, .imm 0]).wellFormed = false ∧
    (Written.mk .setByValue [.reg 0, .imm 256]).wellFormed = false ∧
    (Written.mk .setByValue [.reg 0, .reg 0]).wellFormed = false := by decide

theorem test_wellformed_xy :
    (Written.mk .addReg [.reg 16, .reg 0]).wellFormed = false ∧
    (Written.mk .addReg [.reg 0, .reg 16]).wellFormed = false ∧
    (Written.mk .addReg [.reg 0]).wellFormed = false := by decide

theorem test_wellformed_xyn :
    (Written.mk .drawSprite [.reg 16, .reg 0, .imm 0]).wellFormed = false ∧
    (Written.mk .drawSprite [.reg 0, .reg 16, .imm 0]).wellFormed = false ∧
    (Written.mk .drawSprite [.reg 0, .reg 0, .imm 16]).wellFormed = false := by decide

theorem test_wellformed_x :
    (Written.mk .fillRegs [.reg 16]).wellFormed = false ∧
    (Written.mk .fillRegs [.reg 1, .reg 2]).wellFormed = false := by decide

/-! ### Decoding: every constructor, from a word written out (95_test_vectors.md B1) -/

theorem test_decode_control :
    decode [0x00, 0xEE] = (.ok .ret, []) ∧ decode [0x1A, 0xBC] = (.ok (.jump 0xABC), []) ∧
    decode [0x23, 0x00] = (.ok (.call 0x300), []) ∧
    decode [0x3A, 0x42] = (.ok (.skipValueEq 0xA 0x42), []) ∧
    decode [0x4A, 0x42] = (.ok (.skipValueNe 0xA 0x42), []) ∧
    decode [0x5A, 0xB0] = (.ok (.skipRegEq 0xA 0xB), []) ∧
    decode [0x9A, 0xB0] = (.ok (.skipRegNe 0xA 0xB), []) ∧
    decode [0xBF, 0xFF] = (.ok (.jumpV0 0xFFF), []) := by decide

theorem test_decode_alu :
    decodeWord 0x6005 = .ok (.setByValue 0 5) ∧ decodeWord 0x7201 = .ok (.addToRegister 2 1) ∧
    decodeWord 0x8120 = .ok (.setReg 1 2) ∧ decodeWord 0x8121 = .ok (.orReg 1 2) ∧
    decodeWord 0x8122 = .ok (.andReg 1 2) ∧ decodeWord 0x8123 = .ok (.xorReg 1 2) ∧
    decodeWord 0x8124 = .ok (.addReg 1 2) ∧ decodeWord 0x8125 = .ok (.subReg 1 2) ∧
    decodeWord 0x8126 = .ok (.shiftRight 1 2) ∧ decodeWord 0x8127 = .ok (.subRegReverse 1 2) ∧
    decodeWord 0x812E = .ok (.shiftLeft 1 2) := by decide

theorem test_decode_index_memory :
    decodeWord 0xA2F0 = .ok (.setIRegister 0x2F0) ∧ decodeWord 0xF41E = .ok (.addToI 4) ∧
    decodeWord 0xF529 = .ok (.setIToChar 5) ∧ decodeWord 0xF733 = .ok (.storeBCD 7) ∧
    decodeWord 0xF255 = .ok (.storeRegs 2) ∧ decodeWord 0xF165 = .ok (.fillRegs 1) := by decide

theorem test_decode_display_random :
    decodeWord 0x00E0 = .ok .clearScreen ∧ decodeWord 0xC30F = .ok (.setRandom 3 0x0F) ∧
    decodeWord 0xD125 = .ok (.drawSprite 1 2 5) ∧
    decodeWord 0xD120 = .ok (.drawSprite 1 2 0) := by decide

theorem test_decode_keyboard_timers :
    decodeWord 0xE59E = .ok (.skipKeyPressed 5) ∧ decodeWord 0xE5A1 = .ok (.skipKeyNotPressed 5) ∧
    decodeWord 0xF307 = .ok (.storeDelayTimer 3) ∧ decodeWord 0xF20A = .ok (.waitAndStoreKey 2) ∧
    decodeWord 0xF315 = .ok (.setDelayTimer 3) ∧
    decodeWord 0xF418 = .ok (.setSoundTimer 4) := by decide

theorem test_decode_failures :
    decodeWord 0x0000 = .reject .family0 ∧ decodeWord 0x01E0 = .reject .family0 ∧
    decodeWord 0x5AB1 = .reject .family5 ∧ decodeWord 0x8128 = .reject .family8 ∧
    decodeWord 0x812F = .reject .family8 ∧ decodeWord 0x9ABF = .reject .family9 ∧
    decodeWord 0xE09F = .reject .familyE ∧ decodeWord 0xF066 = .reject .familyF ∧
    decode [0x12] = (.reject .tooShort, [0x12]) := by decide

/-- Bit numbering of the opcode table: bit 15 is the top bit of the first byte in memory. -/
theorem test_table_word :
    decodeTableWord 16 0x8124 = some (.addReg 1 2) ∧ decodeTableWord 16 0x8128 = none := by decide

/-! ### The geometry of 00_scope.md R6 -/

theorem test_stack_window :
    Config.stackLimit = Config.stackOrigin - BitVec.ofNat 16 (2 * Config.stackDepth) ∧
    Config.font.length = Config.fontSize := by decide

/-! ### States to start from -/

/-- The reset state of 95_test_vectors.md, RUNNING, after the fetch of a word at 0x200, with `VF`
= 0x55. -/
def running : State := { State.reset.setReg 15 0x55 with run := true, pc := 0x202 }

/-- `running` with the values of `V[1]` and `V[2]`. -/
def with12 (a b : Byte) : State := (running.setReg 1 a).setReg 2 b

/-- `running` with a value of `I`. -/
def withI (w : Word) : State := { running with i := w }

/-- The next state, where there is one. -/
def got (r : Result) : State :=
  match r with
  | .next t => t
  | _ => State.reset

/-- Where a step of the engine with the word `w` at `PC` leads. -/
def ran (s : State) (w : Nat) : State := got (step (s.withFetchWord 16 w))

/-- The state right before the fetch of the word at 0x200. -/
def ready : State := { running with pc := 0x200 }

/-! ### Fetch (B2) and whole steps -/

theorem test_fetch_last :
    (ran { ready with pc := 0xFFE } 0x6A55).reg 0xA = 0x55 ∧
    (ran { ready with pc := 0xFFE } 0x6A55).pc = 0x1000 := by decide

theorem test_fetch_fault :
    (got (step { ready with pc := 0xFFF, ir := 0x1234 })).haltCause.code = 3 ∧
    (got (step { ready with pc := 0xFFF, ir := 0x1234 })).pc = 0xFFF ∧
    (got (step { ready with pc := 0xFFF, ir := 0x1234 })).ir = 0x1234 := by decide

theorem test_fetch_odd : (ran { ready with pc := 0x201 } 0x6A55).pc = 0x203 := by decide

theorem test_step_decode_failure :
    (ran ready 0x8128).haltCause.code = 1 ∧ (ran ready 0x8128).run = false ∧
    (ran ready 0x8128).pc = 0x202 ∧ (ran ready 0x8128).ir = 0x8128 := by decide

theorem test_first_step_from_reset :
    (ran State.reset 0x6005).reg 0 = 5 ∧ (ran State.reset 0x6005).pc = 0x202 := by decide

/-! ### Control flow (B3) -/

theorem test_return :
    let s : State := { running with
      sp := 0xFFC, mem := Memory.writeBytes [] 0xFFC [0x02, 0x46, 0x02, 0x02] }
    (got (exec .ret s)).pc = 0x246 ∧ (got (exec .ret s)).sp = 0xFFE := by decide

theorem test_return_empty :
    (got (exec .ret running)).haltCause.code = 2 ∧ (got (exec .ret running)).run = false ∧
    (got (exec .ret running)).sp = 0x1000 := by decide

theorem test_jump : (got (exec (.jump 0xABC) running)).pc = 0xABC := by decide

theorem test_jumpV0 :
    (got (exec (.jumpV0 0xFFF) (running.setReg 0 0xFF))).pc = 0x10FE := by decide

theorem test_call :
    let t := got (exec (.call 0xABC) { running with pc := 0x301 })
    t.sp = 0xFFE ∧ t.readByte 0xFFE = some 3 ∧ t.readByte 0xFFF = some 1 ∧ t.pc = 0xABC := by
  decide

theorem test_call_full :
    let t := got (exec (.call 0x300) { running with pc := 0x458, sp := 0xFE0 })
    t.haltCause.code = 2 ∧ t.sp = 0xFE0 ∧ t.pc = 0x458 ∧ t.mem = [] := by decide

theorem test_skipValueEq :
    (got (exec (.skipValueEq 1 0x42) (with12 0x42 0))).pc = 0x204 ∧
    (got (exec (.skipValueEq 1 0x42) (with12 0x43 0))).pc = 0x202 := by decide

theorem test_skipValueNe :
    (got (exec (.skipValueNe 1 0x42) (with12 0x43 0))).pc = 0x204 ∧
    (got (exec (.skipValueNe 1 0x42) (with12 0x42 0))).pc = 0x202 := by decide

theorem test_skipRegEq :
    (got (exec (.skipRegEq 1 2) (with12 9 9))).pc = 0x204 ∧
    (got (exec (.skipRegEq 1 2) (with12 9 8))).pc = 0x202 := by decide

theorem test_skipRegNe :
    (got (exec (.skipRegNe 1 2) (with12 9 8))).pc = 0x204 ∧
    (got (exec (.skipRegNe 1 2) (with12 9 9))).pc = 0x202 := by decide

/-! ### Register and ALU (B4): the result and `VF` -/

/-- `V[1]` and `VF`. -/
def resultAndFlag (s : State) : Byte × Byte := (s.reg 1, s.reg vf)

theorem test_setByValue : (got (exec (.setByValue 15 0x7B) running)).reg vf = 0x7B := by decide

theorem test_addToRegister :
    resultAndFlag (got (exec (.addToRegister 1 1) (with12 0xFF 0))) = (0x00, 0x55) := by decide

theorem test_setReg :
    resultAndFlag (got (exec (.setReg 1 2) (with12 0xA5 0x3C))) = (0x3C, 0x55) := by decide

theorem test_logic :
    resultAndFlag (got (exec (.orReg 1 2) (with12 0xA5 0x3C))) = (0xBD, 0x55) ∧
    resultAndFlag (got (exec (.andReg 1 2) (with12 0xA5 0x3C))) = (0x24, 0x55) ∧
    resultAndFlag (got (exec (.xorReg 1 2) (with12 0xA5 0x3C))) = (0x99, 0x55) := by decide

theorem test_addReg :
    resultAndFlag (got (exec (.addReg 1 2) (with12 0xFF 0xFF))) = (0xFE, 1) ∧
    resultAndFlag (got (exec (.addReg 1 2) (with12 0x7F 0x01))) = (0x80, 0) := by decide

/-- The flag wins where `VF` is the destination, and the old `VF` is the operand where it is the
source (D10). -/
theorem test_addReg_vf :
    ((got (exec (.addReg 15 2) ((with12 0 0x20).setReg 15 0xF0))).reg vf = 1) ∧
    resultAndFlag (got (exec (.addReg 1 15) ((with12 0xFF 0).setReg 15 1))) = (0, 1) := by decide

theorem test_subReg :
    resultAndFlag (got (exec (.subReg 1 2) (with12 3 5))) = (0xFE, 0) ∧
    resultAndFlag (got (exec (.subReg 1 2) (with12 7 7))) = (0, 1) := by decide

theorem test_subRegReverse :
    resultAndFlag (got (exec (.subRegReverse 1 2) (with12 5 3))) = (0xFE, 0) ∧
    resultAndFlag (got (exec (.subRegReverse 1 2) (with12 0 1))) = (1, 1) := by decide

theorem test_shiftRight :
    resultAndFlag ((with12 0xFE 3).shiftRightWith .vx 1 2) = (0x7F, 0) ∧
    resultAndFlag ((with12 0xFE 3).shiftRightWith .vy 1 2) = (1, 1) := by decide

theorem test_shiftLeft :
    resultAndFlag ((with12 0x7F 0xC0).shiftLeftWith .vx 1 2) = (0xFE, 0) ∧
    resultAndFlag ((with12 0x7F 0xC0).shiftLeftWith .vy 1 2) = (0x80, 1) := by decide

/-! ### Index and memory (B5) -/

theorem test_setIRegister : (got (exec (.setIRegister 0x123) (withI 0xFFFF))).i = 0x123 := by decide

theorem test_addToI :
    (got (exec (.addToI 1) { with12 1 0 with i := 0x0FFF })).i = 0x1000 ∧
    (got (exec (.addToI 1) { with12 2 0 with i := 0xFFFF })).i = 1 := by decide

theorem test_setIToChar :
    (got (exec (.setIToChar 1) (with12 9 0))).i = 0x2D ∧
    (got (exec (.setIToChar 1) (with12 0xFF 0))).i = 0x4FB := by decide

theorem test_storeBCD :
    let t := got (exec (.storeBCD 1) { with12 156 0 with i := 0xFFD })
    t.readByte 0xFFD = some 1 ∧ t.readByte 0xFFE = some 5 ∧ t.readByte 0xFFF = some 6 := by decide

theorem test_storeBCD_fault :
    let t := got (exec (.storeBCD 1) { with12 156 0 with i := 0xFFE })
    t.haltCause.code = 3 ∧ t.mem = [] ∧ t.pc = 0x202 := by decide

theorem test_storeRegs :
    let t := got (exec (.storeRegs 2) { (with12 0x22 0x33).setReg 0 0x11 with i := 0x400 })
    t.readByte 0x400 = some 0x11 ∧ t.readByte 0x402 = some 0x33 ∧ t.readByte 0x403 = some 0 ∧
    t.i = 0x400 := by decide

theorem test_storeRegs_fault :
    let t := got (exec (.storeRegs 1) { with12 2 0 with i := 0xFFF })
    t.haltCause.code = 3 ∧ t.mem = [] := by decide

/-- Glyph 1 of the default font (10_state.md R33). -/
theorem test_fillRegs :
    let t := got (exec (.fillRegs 4) (withI 5))
    t.reg 0 = 0x20 ∧ t.reg 1 = 0x60 ∧ t.reg 4 = 0x70 ∧ t.reg 5 = 0 ∧ t.i = 5 := by decide

theorem test_fillRegs_fault :
    let t := got (exec (.fillRegs 1) { with12 0x98 0 with i := 0xFFF })
    t.haltCause.code = 3 ∧ t.reg 1 = 0x98 := by decide

/-! ### Display and random (B6), on the 64 x 32 plane of the vectors -/

theorem test_clearScreen :
    (got (exec .clearScreen { running with pix := [(1, 1), (2, 2)] })).pix = [] ∧
    (got (exec .clearScreen running)).reg vf = 0x55 := by decide

/-- Per-pixel wrap: C3 81 at (62, 31). Pixels are (row, column). -/
theorem test_drawSprite_wraps :
    let s : State := { with12 62 31 with i := 0x300, mem := [(0x300, 0xC3), (0x301, 0x81)] }
    (s.drawSpriteWith 64 32 1 2 2).pix =
      [(0, 5), (0, 62), (31, 4), (31, 5), (31, 62), (31, 63)] ∧
    (s.drawSpriteWith 64 32 1 2 2).reg vf = 0 := by decide

/-- A collision, and the old `VF` as both coordinates. -/
theorem test_drawSprite_collision :
    let s : State := { with12 0 0 with i := 0x300, pix := [(0, 1)], mem := [(0x300, 0xC0)] }
    (s.drawSpriteWith 64 32 1 2 1).pix = [(0, 0)] ∧
    (s.drawSpriteWith 64 32 1 2 1).reg vf = 1 ∧
    ((s.setReg 15 3).drawSpriteWith 64 32 15 15 1).pix = [(0, 1), (3, 3), (3, 4)] := by decide

theorem test_setRandom :
    (running.setRandomWith 0xA7 3 0x0F).reg 3 = 7 ∧
    (running.setRandomWith 0xFF 3 0x00).reg 3 = 0 := by decide

/-! ### Keyboard and timers (B7) -/

theorem test_skipKey :
    (running.skipKeyPressedWith 0xA true).pc = 0x204 ∧
    (running.skipKeyPressedWith 0xA false).pc = 0x202 ∧
    (running.skipKeyNotPressedWith 0xA true).pc = 0x202 ∧
    (running.skipKeyNotPressedWith 0xA false).pc = 0x204 := by decide

theorem test_skipKey_fault :
    (got (exec (.skipKeyPressed 1) (with12 0x10 0))).haltCause.code = 4 ∧
    (got (exec (.skipKeyNotPressed 1) (with12 0xFF 0))).haltCause.code = 4 ∧
    (got (exec (.skipKeyPressed 1) (with12 0x10 0))).pc = 0x202 := by decide

theorem test_storeDelayTimer :
    (got (exec (.storeDelayTimer 3) { running with dt := 0x1E })).reg 3 = 0x1E := by decide

theorem test_setDelayTimer : (got (exec (.setDelayTimer 1) (with12 0x3C 0))).dt = 0x3C := by decide

theorem test_setSoundTimer :
    (got (exec (.setSoundTimer 1) (with12 5 0))).beep = true ∧
    (got (exec (.setSoundTimer 1) { with12 0 0 with st := 7, beep := true })).st = 0 ∧
    (got (exec (.setSoundTimer 1) { with12 0 0 with st := 7, beep := true })).beep = true := by
  decide

theorem test_waitAndStoreKey :
    let s := got (exec (.waitAndStoreKey 2) { running with pc := 0x252 })
    s.waitActive = true ∧ s.waitReg = 2 ∧ (s.pollWith 16).waitActive = true ∧
    (s.pollWith 7).reg 2 = 7 ∧ (s.pollWith 7).waitActive = false ∧ (s.pollWith 7).pc = 0x252 := by
  decide

theorem test_waitAndStoreKey_stopped :
    let s := got (exec (.waitAndStoreKey 2) running)
    s.hostStop.waitActive = false ∧ s.hostStop.reg 2 = 0 ∧ s.hostStop.pc = 0x202 := by decide

theorem test_tick :
    let s : State := { running with dt := 2, st := 2, beep := true }
    s.tick.dt = 1 ∧ s.tick.beep = true ∧ s.tick.tick.st = 0 ∧ s.tick.tick.beep = false ∧
    s.tick.tick.tick.dt = 0 ∧ s.tick.tick.tick.trace = [.stopBeeping] := by decide

theorem test_tick_stopped : ({ State.reset with dt := 5, st := 5 }).tick.dt = 5 := by decide

/-! ### Lifecycle (A1, A2, B8) -/

theorem test_reset_command :
    let s : State := { running with
      sp := 0xFE0, haltCause := .stackFault, waitActive := true, mem := [(0x300, 1)], beep := true }
    s.hostReset.run = false ∧ s.hostReset.sp = 0x1000 ∧ s.hostReset.haltCause.code = 0 ∧
    s.hostReset.pc = 0x200 ∧ s.hostReset.mem = [(0x300, 1)] ∧ s.hostReset.beep = true := by decide

theorem test_loadRom :
    let t := ({ State.reset with pc := 0x456 }).loadRom [0x12, 0x00]
    t.readByte 0x200 = some 0x12 ∧ t.readByte 0x201 = some 0 ∧ t.pc = 0x456 ∧
    t.hostReply = some .loaded := by decide

theorem test_inspect :
    let ask (w : Inspectable) := (got (step { State.reset with
      haltCause := .accessFault, pix := [(3, 5)], agenda := [.host (.inspect w)] })).hostReply
    ask .sp = some (.value 0x1000) ∧ ask .haltCause = some (.value 3) ∧
    ask (.mem 0x005) = some (.value 0x20) ∧ ask (.pix 3 5) = some (.value 1) ∧
    ask (.pix 5 3) = some (.value 0) := by decide

theorem test_run_twice :
    (got (step { State.reset with agenda := [.host .run] })).run = true ∧
    (got (step { running with agenda := [.host .run] })).pc = 0x202 := by decide

theorem test_idle_reset : step State.reset = .next State.reset := rfl

/-- What an unlisted address reads as, and a write that keeps memory canonical (log 8, 9). -/
theorem test_memory_fill :
    State.reset.readByte 0x005 = some 0x20 ∧ State.reset.readByte 0x050 = some 0 ∧
    State.reset.readByte 0x1000 = none ∧ Memory.write [(0x300, 7)] 0x300 0 = [] := by decide

/-! ### Witnesses: each statement's hypotheses can be met

`witness_<Name>` is for `Obligations.<Name>`. A statement whose only hypothesis is that a word has
the fixed bits of its row is covered by `witness_words`. -/

/-- For every clause of the form "a word with these bits decodes to …". -/
theorem witness_words :
    (0x00E0#16 &&& 0xFFFF = 0x00E0) ∧ (0x00EE#16 &&& 0xFFFF = 0x00EE) ∧
    (0x1ABC#16 &&& 0xF000 = 0x1000) ∧ (0x2300#16 &&& 0xF000 = 0x2000) ∧
    (0x3A42#16 &&& 0xF000 = 0x3000) ∧ (0x4A42#16 &&& 0xF000 = 0x4000) ∧
    (0x5AB0#16 &&& 0xF00F = 0x5000) ∧ (0x6005#16 &&& 0xF000 = 0x6000) ∧
    (0x7201#16 &&& 0xF000 = 0x7000) ∧ (0x8120#16 &&& 0xF00F = 0x8000) ∧
    (0x8121#16 &&& 0xF00F = 0x8001) ∧ (0x8122#16 &&& 0xF00F = 0x8002) ∧
    (0x8123#16 &&& 0xF00F = 0x8003) ∧ (0x8124#16 &&& 0xF00F = 0x8004) ∧
    (0x8125#16 &&& 0xF00F = 0x8005) ∧ (0x8126#16 &&& 0xF00F = 0x8006) ∧
    (0x8127#16 &&& 0xF00F = 0x8007) ∧ (0x812E#16 &&& 0xF00F = 0x800E) ∧
    (0x9AB0#16 &&& 0xF00F = 0x9000) ∧ (0xA2F0#16 &&& 0xF000 = 0xA000) ∧
    (0xBFFF#16 &&& 0xF000 = 0xB000) ∧ (0xC30F#16 &&& 0xF000 = 0xC000) ∧
    (0xD125#16 &&& 0xF000 = 0xD000) ∧ (0xE59E#16 &&& 0xF0FF = 0xE09E) ∧
    (0xE5A1#16 &&& 0xF0FF = 0xE0A1) ∧ (0xF307#16 &&& 0xF0FF = 0xF007) ∧
    (0xF20A#16 &&& 0xF0FF = 0xF00A) ∧ (0xF315#16 &&& 0xF0FF = 0xF015) ∧
    (0xF418#16 &&& 0xF0FF = 0xF018) ∧ (0xF41E#16 &&& 0xF0FF = 0xF01E) ∧
    (0xF529#16 &&& 0xF0FF = 0xF029) ∧ (0xF733#16 &&& 0xF0FF = 0xF033) ∧
    (0xF255#16 &&& 0xF0FF = 0xF055) ∧ (0xF165#16 &&& 0xF0FF = 0xF065) := by decide

theorem witness_DecodeEncode : (Instr.drawSprite 1 2 5).wellFormed = true := by decide

theorem witness_EncodeDecode : decodeWord 0xD125 = .ok (.drawSprite 1 2 5) := by decide

theorem witness_TableDecidesDecoding :
    decodeWord 0x8127 = .ok (.subRegReverse 1 2) ∧
    ⟨.subRegReverse, 0x8007, 0xF00F⟩ ∈ opcodeTable ∧
    (OpcodeRow.mk .subRegReverse 0x8007 0xF00F).selects 0x8127 = true := by decide

/-- Both sides, at the words where the families meet their accepted neighbours. -/
theorem witness_FailingWords :
    decodeWord 0x00EF = .reject .family0 ∧ decodeWord 0x00EE = .ok .ret ∧
    fieldOp 0x8128 = 0x8 ∧ fieldN 0x8128 = 0x8 ∧ fieldKK 0xF066 = 0x66 := by decide

/-- Memory with the word 0x8124 at 0x200. -/
def withWord : State := { ready with mem := [(0x200, 0x81), (0x201, 0x24)] }

theorem witness_StepRunsDecoded :
    withWord.run = true ∧ withWord.waitActive = false ∧ EngineTurn withWord ∧
    withWord.readByte 0x200 = some 0x81 ∧ withWord.readByte 0x201 = some 0x24 ∧
    decode [0x81, 0x24] = (.ok (.addReg 1 2), []) ∧ (Instr.addReg 1 2).wellFormed = true :=
  ⟨rfl, rfl, .inl rfl, by decide, by decide, by decide, by decide⟩

/-- `PC` = 0xFFF is above 0xFFE although the byte there exists. -/
theorem witness_FetchFault :
    let s : State := { ready with pc := 0xFFF }
    s.run = true ∧ s.waitActive = false ∧ EngineTurn s ∧ 0xFFE < s.pc.toNat :=
  ⟨rfl, rfl, .inl rfl, by decide⟩

theorem witness_DecodeFailureHalts :
    ready.run = true ∧ ready.waitActive = false ∧ EngineTurn ready ∧
    ready.readByte 0x200 = some 0 ∧ ready.readByte 0x201 = some 0 ∧
    decodeWord (wordOfBytes 0 0) = .reject .family0 :=
  ⟨rfl, rfl, .inl rfl, by decide, by decide, by decide⟩

theorem witness_FaultsArePrecise :
    SpInWindow running ∧ running.run = true ∧
    (∃ t, exec .ret running = .next t ∧ t.run = false) ∧
    (∃ t, exec (.storeBCD 0) (withI 0xFFE) = .next t ∧ t.run = false) ∧
    ∃ t, exec (.skipKeyPressed 15) running = .next t ∧ t.run = false :=
  ⟨by decide, rfl, ⟨_, rfl, rfl⟩, ⟨_, rfl, rfl⟩, ⟨_, rfl, rfl⟩⟩

/-- A state that refuses, and one that does not. -/
theorem witness_OnlyHostMisuseIsRefused :
    step { running with agenda := [.host (.loadRom [])] } = .refused .hostWhileRunning ∧
    step { running with agenda := [.host (.inspect .pc)] } = .refused .hostWhileRunning ∧
    ∃ t, step { State.reset with agenda := [.host (.loadRom [])] } = .next t :=
  ⟨rfl, rfl, _, rfl⟩

/-- The empty stack, and the two ends of the stack that is not empty. -/
theorem witness_Return :
    running.sp = 0x1000 ∧
    SpInWindow { running with sp := 0xFE0 } ∧ SpInWindow { running with sp := 0xFFE } := by decide

/-- The full stack, and the two ends of the stack that is not full. -/
theorem witness_Call :
    ({ running with sp := 0xFE0 } : State).sp = 0xFE0 ∧
    SpInWindow { running with sp := 0xFE2 } ∧ SpInWindow { running with sp := 0x1000 } := by decide

theorem witness_CallThenReturn : SpInWindow running ∧ running.sp ≠ 0xFE0 := by decide

/-- For AddReg, SubReg and SubRegReverse: a destination that is not `VF`, and `VF`. -/
theorem witness_AddReg : (1 : Reg) ≠ vf ∧ ¬ ((15 : Reg) ≠ vf) := by decide

/-- For ShiftRight and ShiftLeft: one of the two hypotheses on `SHIFT_SOURCE` holds. -/
theorem witness_Shift : Config.shiftSource = .vx ∨ Config.shiftSource = .vy := by
  cases Config.shiftSource
  · exact .inl rfl
  · exact .inr rfl

/-- The last base in range and the first out of range. -/
theorem witness_StoreBCD :
    (withI 0xFFD).i.toNat + 2 ≤ 0xFFF ∧ (withI 0xFFE).i.toNat + 2 > 0xFFF := by decide

/-- For StoreRegs and FillRegs: the last base in range and the first out of range, for the
shortest and the longest block. -/
theorem witness_StoreRegs :
    (withI 0xFFF).i.toNat + (0 : Reg).toNat ≤ 0xFFF ∧
    (withI 0x1000).i.toNat + (0 : Reg).toNat > 0xFFF ∧
    (withI 0xFF0).i.toNat + (15 : Reg).toNat ≤ 0xFFF ∧
    (withI 0xFF1).i.toNat + (15 : Reg).toNat > 0xFFF := by decide

/-- StoreRegs and StoreBCD with the fetch over the stored bytes, over the edge of memory, and apart
from them; Call at both ends of the stack that is not full, its target the last fetchable address. -/
theorem witness_StoreSeenByNextFetch :
    ((withI 0x202).i.toNat + (1 : Reg).toNat ≤ 0xFFF ∧ (withI 0x202).pc.toNat ≤ 0xFFE) ∧
    ((withI 0xFF0).i.toNat + (15 : Reg).toNat ≤ 0xFFF ∧
      ({ withI 0xFF0 with pc := 0xFFE } : State).pc.toNat ≤ 0xFFE) ∧
    ((withI 0xFFD).i.toNat + 2 ≤ 0xFFF ∧
      ({ withI 0xFFD with pc := 0xFFC } : State).pc.toNat ≤ 0xFFE) ∧
    (SpInWindow running ∧ running.sp ≠ 0xFE0 ∧ (0xFFE : Addr).toNat ≤ 0xFFE) ∧
    SpInWindow { running with sp := 0xFE2 } ∧ (0xFFF : Addr).toNat > 0xFFE := by decide

/-- No row at a base out of memory; the last byte of memory as the only row; one row more. -/
theorem witness_DrawSprite :
    ((0 : RowCount) = 0 ∨ (withI 0xFFFF).i.toNat + (0 : RowCount).toNat - 1 ≤ 0xFFF) ∧
    ((1 : RowCount) = 0 ∨ (withI 0xFFF).i.toNat + (1 : RowCount).toNat - 1 ≤ 0xFFF) ∧
    ((2 : RowCount) ≠ 0 ∧ (withI 0xFFF).i.toNat + (2 : RowCount).toNat - 1 > 0xFFF) := by decide

theorem witness_SpriteIsExclusiveOr : 8 ≤ 64 ∧ 0 < 32 ∧ (15 : RowCount).toNat ≤ 32 := by decide

/-- The last key there is and the first that there is not. -/
theorem witness_SkipKey :
    ((with12 15 0).reg 1).toNat ≤ 15 ∧ ((with12 16 0).reg 1).toNat > 15 := by decide

theorem witness_WaitAndStoreKey :
    (15 : BitVec 5).toNat ≤ 15 ∧ 15 < (16 : BitVec 5).toNat ∧ 15 < (31 : BitVec 5).toNat := by
  decide

theorem witness_PollStep :
    let s : State := { running with waitActive := true, waitReg := 2 }
    s.run = true ∧ s.waitActive = true ∧ EngineTurn s := ⟨rfl, rfl, .inl rfl⟩

theorem witness_SetSoundTimer :
    0 < ((with12 1 0).reg 1).toNat ∧ (with12 0 0).reg 1 = 0 := by decide

/-- STOPPED; RUNNING with a sound timer at 1, and at 0. -/
theorem witness_Tick :
    ({ State.reset with agenda := [.tick] } : State).run = false ∧
    (∃ s : State, s.agenda = .tick :: [] ∧ s.run = true ∧ s.st.toNat = 1) ∧
    ∃ s : State, s.agenda = .tick :: [] ∧ s.run = true ∧ s.st.toNat ≠ 1 :=
  ⟨rfl, ⟨{ running with agenda := [.tick], st := 1 }, rfl, rfl, rfl⟩,
    ⟨{ running with agenda := [.tick] }, rfl, rfl, by decide⟩⟩

theorem witness_TicksCountDown : running.run = true := rfl

/-- For the statements on a host command: RUNNING or STOPPED, with the command at the head of the
agenda. -/
theorem witness_HostCommand (c : HostCommand) :
    (∃ s : State, s.agenda = .host c :: [] ∧ s.run = true) ∧
    ∃ s : State, s.agenda = .host c :: [] ∧ s.run = false :=
  ⟨⟨{ running with agenda := [.host c] }, rfl, rfl⟩,
    ⟨{ State.reset with agenda := [.host c] }, rfl, rfl⟩⟩

/-- For the second clause of HostStop and of OnlyRunWakes: STOPPED, a tick to come. -/
theorem witness_HostStop :
    let s : State := { State.reset with agenda := [.tick] }
    s.run = false ∧ (∀ c, s.agenda.head? ≠ some (.host c)) ∧ ∃ t, step s = .next t :=
  ⟨rfl, by simp, _, rfl⟩

/-- The longest ROM that fits and the shortest that does not. -/
theorem witness_HostLoadRom :
    (List.replicate 3584 (0 : Byte)).length ≤ 3584 ∧
    (List.replicate 3585 (0 : Byte)).length > 3584 := by
  rw [List.length_replicate, List.length_replicate]
  decide

theorem witness_OnlyRunWakes :
    ∃ t, State.reset.run = false ∧
      step { State.reset with agenda := [.host .run] } = .next t ∧ t.run = true :=
  ⟨_, rfl, rfl, rfl⟩

/-- By Stop, by Reset, by a fault. -/
theorem witness_HowARunEnds :
    (∃ t, step { running with agenda := [.host .stop] } = .next t ∧ t.run = false) ∧
    (∃ t, step { running with agenda := [.host .reset] } = .next t ∧ t.run = false) ∧
    ∃ t, step { running with pc := 0xFFF } = .next t ∧ t.run = false :=
  ⟨⟨_, rfl, rfl⟩, ⟨_, rfl, rfl⟩, ⟨_, rfl, rfl⟩⟩

/-- By Reset, and by a fault. -/
theorem witness_HaltCauseIsSticky :
    (∃ t, step { running with haltCause := .keyFault, agenda := [.host .reset] } = .next t ∧
      t.haltCause ≠ .keyFault) ∧
    ∃ t, step { running with pc := 0xFFF } = .next t ∧ t.haltCause ≠ running.haltCause :=
  ⟨⟨_, rfl, by decide⟩, ⟨_, rfl, by decide⟩⟩

theorem witness_PowerOn : defaultChoice.font.length = 80 ∧ defaultChoice.ram.length ≤ 4016 := by
  decide

theorem witness_StepKeepsInvariant :
    Invariant State.reset ∧ step State.reset = .next State.reset :=
  ⟨⟨by decide, ⟨List.Pairwise.nil, by simp [State.reset]⟩, by decide, by decide, by decide⟩, rfl⟩

theorem witness_MemoryIsCanonical : Memory.wf [(0x200, 1), (0x201, 2)] := by decide

/-- Each register changed by one of the steps the statement names. -/
theorem witness_WhoWritesRegisters :
    (ran ready 0x2300).sp ≠ ready.sp ∧ (ran ready 0xA123).i ≠ ready.i ∧
    (ran { ready with dt := 1 } 0xF015).dt ≠ 1 ∧ (ran { ready with st := 1 } 0xF018).st ≠ 1 := by
  decide

/-- Memory, the plane and the tone changed by one of the steps the statement names. -/
theorem witness_WhoWritesMemoryAndPorts :
    (ran ready 0x2300).mem ≠ (ready.withFetchWord 16 0x2300).mem ∧
    (ran { ready with pix := [(0, 0)] } 0x00E0).pix ≠ [(0, 0)] ∧
    (ran (ready.setReg 0 1) 0xF018).beep ≠ ready.beep := by decide

theorem witness_HiddenStateIsNotRead : ∃ t, exec (.setSoundTimer 1) (with12 5 0) = .next t :=
  ⟨_, rfl⟩

/-! #### A fair endless run -/

/-- The two engines in turn. -/
def turnabout : Schedule := fun n => if n % 2 = 0 then .instruction else .tick

/-- A machine that jumps to itself at 0x200, its delay timer at 1 first and at 0 after the first
tick. -/
def spinning (n : Nat) : State :=
  { State.reset with
    run := true, ir := if n = 0 then 0 else 0x1200, dt := if n ≤ 1 then 1 else 0
    mem := [(0x200, 0x12)], agenda := [] }

theorem spinning_late (n : Nat) : spinning (n + 2) = spinning 2 := by
  simp [spinning]

theorem turnabout_cases (n : Nat) : turnabout n = .instruction ∨ turnabout n = .tick := by
  unfold turnabout
  split <;> simp

theorem spinning_follows : Follows turnabout spinning := by
  intro n
  match n with
  | 0 => rfl
  | 1 => rfl
  | n + 2 =>
    rw [show n + 2 + 1 = n + 1 + 2 from rfl, spinning_late n, spinning_late (n + 1)]
    rcases turnabout_cases (n + 2) with h | h <;> rw [h] <;> rfl

theorem spinning_fetches (n : Nat) : ((spinning n).facing .instruction).nextMove =
    .execute (.jump 0x200) ((spinning n).withAgenda []).fetched := by
  match n with
  | 0 => rfl
  | 1 => rfl
  | n + 2 =>
    rw [spinning_late n]
    rfl

theorem spinning_jumps (n : Nat) (i : Instr) (h : Executes ((spinning n).facing (turnabout n)) i) :
    i = .jump 0x200 := by
  obtain ⟨t, h⟩ := h
  rcases turnabout_cases n with e | e <;> rw [e] at h
  · exact (Move.execute.inj ((spinning_fetches n).symm.trans h)).1.symm
  · cases h

theorem witness_DelayExpiresUnderFairness :
    turnabout.Fair ∧ turnabout.NoHost ∧ Follows turnabout spinning ∧
    (∀ n, (spinning n).run = true) ∧
    (∀ n x, ¬ Executes ((spinning n).facing (turnabout n)) (.setDelayTimer x)) := by
  refine ⟨fun n => ⟨⟨2 * n, by omega, ?_⟩, ⟨2 * n + 1, by omega, ?_⟩⟩, fun n c h => ?_,
    spinning_follows, fun n => rfl, fun n x h => ?_⟩
  · simp [turnabout]
  · simp [turnabout]
  · rcases turnabout_cases n with e | e <;> rw [e] at h <;> cases h
  · cases spinning_jumps n _ h

end Sys2Proof.Tests
end

section
/-! The invariant of the machine (10_state.md R27, R32, R35; 44_keyboard_timers.md R175;
60_exceptions.md R212): each kind of step keeps it. -/

namespace Sys2Proof.Machine

/-- A push from above the lower end of the window stays in it: `SP - 2` does not wrap
(10_state.md R27). -/
theorem SpInWindow.push {s t : State} (h : SpInWindow s) (hne : s.sp ≠ 0xFE0)
    (ht : t.sp = s.sp - 2) : SpInWindow t := by
  obtain ⟨hlo, hhi, heven⟩ := h
  have hne' : s.sp.toNat ≠ 0xFE0 := fun e => hne (BitVec.eq_of_toNat_eq e)
  have hsub : t.sp.toNat = s.sp.toNat - 2 := by
    rw [ht]
    exact BitVec.toNat_sub_of_le (y := 2) (BitVec.le_def.mpr (by simp; omega))
  exact ⟨by omega, by omega, by omega⟩

/-- A pop from below the upper end of the window stays in it (10_state.md R27). -/
theorem SpInWindow.pop {s t : State} (h : SpInWindow s) (hne : s.sp ≠ 0x1000)
    (ht : t.sp = s.sp + 2) : SpInWindow t := by
  obtain ⟨hlo, hhi, heven⟩ := h
  have hne' : s.sp.toNat ≠ 0x1000 := fun e => hne (BitVec.eq_of_toNat_eq e)
  have hadd : t.sp.toNat = s.sp.toNat + 2 := by
    rw [ht]
    exact BitVec.toNat_add_of_lt (y := 2) (by simp; omega)
  exact ⟨by omega, by omega, by omega⟩

/-- With no key wait pending, what an instruction leaves meets the invariant. -/
theorem Effect.keeps_invariant {i : Instr} {s t : State} (e : Effect i s t) (hs : Invariant s)
    (hr : s.run = true) (hw : s.waitActive = false) : Invariant t := by
  cases e with
  | fault => exact { hs with wait := by simp [hw] }
  | push _ _ hne => exact { hs with
      memory := Memory.writeBytes_wf _ _ hs.memory, stack := hs.stack.push hne rfl }
  | pop _ _ hne => exact { hs with stack := hs.stack.pop hne rfl }
  | store => exact { hs with memory := Memory.writeBytes_wf _ _ hs.memory }
  | clear => exact { hs with plane := Plane.nil_wf _ _ }
  | draw _ _ _ _ hp => exact { hs with plane := hp hs.plane }
  | wait => exact { hs with wait := fun _ => hr }
  | silent => exact { hs with tone := fun h => absurd rfl h }
  | sound => exact { hs with tone := fun _ => rfl }
  | registers | jump | index | random | keySkip | delay => exact { hs with }

theorem State.tick_keeps_invariant {s : State} (hs : Invariant s) : Invariant s.tick := by
  cases hr : s.run with
  | false => rwa [State.tick_stopped hr]
  | true =>
    obtain ⟨d, e, -, he, ⟨h1, eq⟩ | ⟨h1, eq⟩⟩ := State.tick_cases hr <;> rw [eq]
    · have he0 : e = 0 := BitVec.eq_of_toNat_eq (by rw [he, h1]; rfl)
      exact { hs with tone := fun h => absurd he0 h }
    · refine { hs with tone := fun h => hs.tone fun h0 => h (BitVec.eq_of_toNat_eq ?_) }
      show e.toNat = 0
      rw [he, h0]
      rfl

theorem State.poll_keeps_invariant {s : State} (hs : Invariant s) : Invariant s.poll := by
  rcases s.pollWith_cases (Config.waitForKey s.queries) with ⟨-, e⟩ | ⟨-, e⟩ <;>
    rw [State.poll, e]
  · exact { hs with wait := nofun }
  · exact { hs with }

theorem State.loadRom_keeps_invariant {s : State} (rom : List Byte) (hs : Invariant s) :
    Invariant (s.loadRom rom) := by
  rcases s.loadRom_cases rom with ⟨-, e⟩ | ⟨-, e⟩ <;> rw [e]
  · exact { hs with }
  · exact { hs with memory := Memory.writeBytes_wf _ _ hs.memory }

theorem hostCommand_keeps_invariant {c : HostCommand} {s t : State} (hs : Invariant s)
    (h : hostCommand c s = .settled t) : Invariant t := by
  rcases hostCommand_cases h with ⟨-, rfl⟩ | ⟨-, rfl⟩ | ⟨-, rfl⟩ | ⟨rom, -, -, rfl⟩ | ⟨r, rfl⟩
  · exact { hs with wait := fun _ => rfl }
  · exact { hs with wait := nofun }
  · exact { hs with
      stack := (by decide : SpInWindow State.reset), wait := nofun, tone := fun h => absurd rfl h }
  · exact s.loadRom_keeps_invariant rom hs
  · exact { hs with }

end Sys2Proof.Machine

open Sys2Proof Sys2Proof.Machine

/-- Settles O56, by the inversion of a step: each kind of step keeps the invariant. -/
theorem stepKeepsInvariant : Obligations.StepKeepsInvariant := by
  intro s t hs h
  have hu : Invariant (s.withAgenda s.agenda.tail) := { hs with }
  rcases step_cases h with ⟨-, he⟩ | ⟨-, rfl⟩ | ⟨c, -, hc⟩
  · rcases he with ⟨-, rfl⟩ | ⟨-, -, rfl⟩ | ⟨-, hw, -, rfl⟩ | ⟨-, hw, -, rfl⟩ |
      ⟨hr, hw, -, i, -, hx⟩
    · exact hu
    · exact State.poll_keeps_invariant hu
    · exact { hu with wait := by simp [hw] }
    · exact { hu with wait := by simp [hw] }
    · exact (effect_of_exec hx).keeps_invariant { hu with } hr hw
  · exact State.tick_keeps_invariant hu
  · exact hostCommand_keeps_invariant hu hc

/-- Settles O55: nothing is listed in memory or on the plane, `SP` is at the stack's origin, no
wait is pending and the sound timer is 0. -/
theorem resetInvariant : Obligations.ResetInvariant where
  memory := reset_mem_wf
  plane := Plane.nil_wf _ _
  stack := by decide
  wait := nofun
  tone := fun h => absurd rfl h

end

section
/-! Who writes what: the pieces of the state that few kinds of step change (10_state.md R24, R27,
R28, R30, R33, R34, R35; 20_memory.md R59). -/

namespace Sys2Proof.Machine

/-! ### What each kind of instruction writes -/

section
variable {i : Instr} {s t : State}

theorem Effect.sp_eq_or (e : Effect i s t) : t.sp = s.sp ∨ i = .ret ∨ ∃ nnn, i = .call nnn := by
  cases e with
  | push _ hi => exact .inr (.inr hi)
  | pop _ hi => exact .inr (.inl hi)
  | _ => exact .inl rfl

theorem Effect.i_eq_or (e : Effect i s t) : t.i = s.i ∨ (∃ nnn, i = .setIRegister nnn) ∨
    (∃ x, i = .addToI x) ∨ ∃ x, i = .setIToChar x := by
  cases e with
  | index _ hi => exact .inr hi
  | _ => exact .inl rfl

theorem Effect.dt_eq_or (e : Effect i s t) : t.dt = s.dt ∨ ∃ x, i = .setDelayTimer x := by
  cases e with
  | delay _ hi => exact .inr hi
  | _ => exact .inl rfl

theorem Effect.st_eq_or (e : Effect i s t) : t.st = s.st ∨ ∃ x, i = .setSoundTimer x := by
  cases e with
  | silent hi => exact .inr hi
  | sound _ hi => exact .inr hi
  | _ => exact .inl rfl

theorem Effect.mem_eq_or (e : Effect i s t) : t.mem = s.mem ∨ (∃ x, i = .storeBCD x) ∨
    (∃ x, i = .storeRegs x) ∨ ∃ nnn, i = .call nnn := by
  cases e with
  | push _ hi => exact .inr (.inr (.inr hi))
  | store _ _ hi => exact .inr (hi.imp_right .inl)
  | _ => exact .inl rfl

theorem Effect.pix_eq_or (e : Effect i s t) :
    t.pix = s.pix ∨ i = .clearScreen ∨ ∃ x y n, i = .drawSprite x y n := by
  cases e with
  | clear hi => exact .inr (.inl hi)
  | draw _ _ _ hi => exact .inr (.inr hi)
  | _ => exact .inl rfl

theorem Effect.beep_eq_or (e : Effect i s t) : t.beep = s.beep ∨ ∃ x, i = .setSoundTimer x := by
  cases e with
  | sound _ hi => exact .inr hi
  | _ => exact .inl rfl

/-- An instruction writes `HALT_CAUSE` by a fault only (60_exceptions.md R203). -/
theorem Effect.haltCause_eq_or (e : Effect i s t) :
    t.haltCause = s.haltCause ∨ (t.run = false ∧ t.haltCause ≠ .none) := by
  cases e with
  | fault _ hc => exact .inr ⟨rfl, hc⟩
  | _ => exact .inl rfl

end

/-! ### What each kind of step writes -/

/-- The two states hold the same in `SP`, `I`, the timers, memory, the plane and the tone. -/
structure SameData (s t : State) : Prop where
  sp : t.sp = s.sp
  i : t.i = s.i
  dt : t.dt = s.dt
  st : t.st = s.st
  mem : t.mem = s.mem
  pix : t.pix = s.pix
  beep : t.beep = s.beep

/-- A poll writes a general register, the wait and the record of queries only. -/
theorem State.poll_sameData (s : State) : SameData s s.poll := by
  rcases s.pollWith_cases (Config.waitForKey s.queries) with ⟨-, e⟩ | ⟨-, e⟩ <;>
    rw [State.poll, e] <;> constructor <;> rfl

/-- A tick writes the timers and the tone only, and none of them while STOPPED. -/
theorem State.tick_sameData (s : State) : SameData s s.tick ∨
    (s.run = true ∧ ∃ d e b, SameData { s with dt := d, st := e, beep := b } s.tick) := by
  cases hr : s.run with
  | false =>
    rw [State.tick_stopped hr]
    exact .inl (by constructor <;> rfl)
  | true =>
    obtain ⟨d, e, -, -, ⟨-, eq⟩ | ⟨-, eq⟩⟩ := State.tick_cases hr
    · exact .inr ⟨rfl, d, e, false, by rw [eq]; constructor <;> rfl⟩
    · exact .inr ⟨rfl, d, e, s.beep, by rw [eq]; constructor <;> rfl⟩

/-- Of the host's commands Reset writes what `hostReset` does, LoadRom memory, the others nothing
of the data. -/
theorem hostCommand_sameData {c : HostCommand} {s t : State} (h : hostCommand c s = .settled t) :
    SameData s t ∨ (c = .reset ∧ SameData s.hostReset t) ∨
      ∃ rom m, c = .loadRom rom ∧ SameData { s with mem := m } t := by
  rcases hostCommand_cases h with ⟨-, rfl⟩ | ⟨-, rfl⟩ | ⟨rfl, rfl⟩ | ⟨rom, rfl, -, rfl⟩ | ⟨r, rfl⟩
  · exact .inl (by constructor <;> rfl)
  · exact .inl (by constructor <;> rfl)
  · exact .inr (.inl ⟨rfl, by constructor <;> rfl⟩)
  · rcases s.loadRom_cases rom with ⟨-, e⟩ | ⟨-, e⟩ <;> rw [e]
    · exact .inl (by constructor <;> rfl)
    · exact .inr (.inr ⟨rom, _, rfl, by constructor <;> rfl⟩)
  · exact .inl (by constructor <;> rfl)

/-- What a step can do to a piece `f` of the data: where it changes `f`, it is an instruction whose
effect changes `f`, a tick while RUNNING that changes `f` through the timers and the tone, a Reset
that changes it, or a LoadRom that changes it through memory. -/
theorem step_change {α : Type} (f : State → α) (hf : ∀ a b, SameData a b → f b = f a)
    {s t : State} (h : step s = .next t) (hne : f t ≠ f s) :
    (∃ i u, Executes s i ∧ Effect i u t ∧ f t ≠ f u) ∨
    (s.agenda.head? = some .tick ∧ s.run = true ∧
      ∃ d e b, f { s with dt := d, st := e, beep := b } ≠ f s) ∨
    (s.agenda.head? = some (.host .reset) ∧ f s.hostReset ≠ f s) ∨
    ∃ rom m, s.agenda.head? = some (.host (.loadRom rom)) ∧ f { s with mem := m } ≠ f s := by
  have differs {w : State} (hw : SameData w t) : f w ≠ f s := by rwa [← hf w t hw]
  have unchanged (hs : SameData s t) : False := differs hs rfl
  rcases step_cases h with ⟨-, he⟩ | ⟨ht, rfl⟩ | ⟨c, hc, hcmd⟩
  · rcases he with ⟨-, rfl⟩ | ⟨-, -, rfl⟩ | ⟨-, -, -, rfl⟩ | ⟨-, -, -, rfl⟩ |
      ⟨-, -, -, i, hn, hx⟩
    · exact (unchanged (by constructor <;> rfl)).elim
    · exact (unchanged { State.poll_sameData (s.withAgenda s.agenda.tail) with }).elim
    · exact (unchanged (by constructor <;> rfl)).elim
    · exact (unchanged (by constructor <;> rfl)).elim
    · refine .inl ⟨i, _, ⟨_, hn⟩, effect_of_exec hx, ?_⟩
      rw [hf s (s.withAgenda s.agenda.tail).fetched (by constructor <;> rfl)]
      exact hne
  · rcases State.tick_sameData (s.withAgenda s.agenda.tail) with hs | ⟨hr, d, e, b, hs⟩
    · exact (unchanged { hs with }).elim
    · exact .inr (.inl ⟨ht, hr, d, e, b, differs { hs with }⟩)
  · rcases hostCommand_sameData hcmd with hs | ⟨rfl, hs⟩ | ⟨rom, m, rfl, hs⟩
    · exact (unchanged { hs with }).elim
    · exact .inr (.inr (.inl ⟨hc, differs { hs with }⟩))
    · exact .inr (.inr (.inr ⟨rom, m, hc, differs { hs with }⟩))

section
variable {s t : State} (h : step s = .next t)
include h

theorem step_sp (hne : t.sp ≠ s.sp) : Executes s .ret ∨ (∃ nnn, Executes s (.call nnn)) ∨
    s.agenda.head? = some (.host .reset) := by
  rcases step_change State.sp (fun _ _ hs => hs.sp) h hne with
    ⟨i, u, hx, e, he⟩ | ⟨-, -, _, _, _, he⟩ | ⟨hr, -⟩ | ⟨_, _, -, he⟩
  · rcases e.sp_eq_or.resolve_left he with rfl | ⟨nnn, rfl⟩
    · exact .inl hx
    · exact .inr (.inl ⟨nnn, hx⟩)
  · exact absurd rfl he
  · exact .inr (.inr hr)
  · exact absurd rfl he

theorem step_i (hne : t.i ≠ s.i) : (∃ nnn, Executes s (.setIRegister nnn)) ∨
    (∃ x, Executes s (.addToI x)) ∨ (∃ x, Executes s (.setIToChar x)) ∨
    s.agenda.head? = some (.host .reset) := by
  rcases step_change State.i (fun _ _ hs => hs.i) h hne with
    ⟨i, u, hx, e, he⟩ | ⟨-, -, _, _, _, he⟩ | ⟨hr, -⟩ | ⟨_, _, -, he⟩
  · rcases e.i_eq_or.resolve_left he with ⟨nnn, rfl⟩ | ⟨x, rfl⟩ | ⟨x, rfl⟩
    · exact .inl ⟨nnn, hx⟩
    · exact .inr (.inl ⟨x, hx⟩)
    · exact .inr (.inr (.inl ⟨x, hx⟩))
  · exact absurd rfl he
  · exact .inr (.inr (.inr hr))
  · exact absurd rfl he

theorem step_dt (hne : t.dt ≠ s.dt) : (∃ x, Executes s (.setDelayTimer x)) ∨
    (s.agenda.head? = some .tick ∧ s.run = true) ∨ s.agenda.head? = some (.host .reset) := by
  rcases step_change State.dt (fun _ _ hs => hs.dt) h hne with
    ⟨i, u, hx, e, he⟩ | ⟨ht, hrun, -⟩ | ⟨hr, -⟩ | ⟨_, _, -, he⟩
  · obtain ⟨x, rfl⟩ := e.dt_eq_or.resolve_left he
    exact .inl ⟨x, hx⟩
  · exact .inr (.inl ⟨ht, hrun⟩)
  · exact .inr (.inr hr)
  · exact absurd rfl he

theorem step_st (hne : t.st ≠ s.st) : (∃ x, Executes s (.setSoundTimer x)) ∨
    (s.agenda.head? = some .tick ∧ s.run = true) ∨ s.agenda.head? = some (.host .reset) := by
  rcases step_change State.st (fun _ _ hs => hs.st) h hne with
    ⟨i, u, hx, e, he⟩ | ⟨ht, hrun, -⟩ | ⟨hr, -⟩ | ⟨_, _, -, he⟩
  · obtain ⟨x, rfl⟩ := e.st_eq_or.resolve_left he
    exact .inl ⟨x, hx⟩
  · exact .inr (.inl ⟨ht, hrun⟩)
  · exact .inr (.inr hr)
  · exact absurd rfl he

theorem step_mem (hne : t.mem ≠ s.mem) : (∃ x, Executes s (.storeBCD x)) ∨
    (∃ x, Executes s (.storeRegs x)) ∨ (∃ nnn, Executes s (.call nnn)) ∨
    ∃ rom, s.agenda.head? = some (.host (.loadRom rom)) := by
  rcases step_change State.mem (fun _ _ hs => hs.mem) h hne with
    ⟨i, u, hx, e, he⟩ | ⟨-, -, _, _, _, he⟩ | ⟨-, he⟩ | ⟨rom, _, hl, -⟩
  · rcases e.mem_eq_or.resolve_left he with ⟨x, rfl⟩ | ⟨x, rfl⟩ | ⟨nnn, rfl⟩
    · exact .inl ⟨x, hx⟩
    · exact .inr (.inl ⟨x, hx⟩)
    · exact .inr (.inr (.inl ⟨nnn, hx⟩))
  · exact absurd rfl he
  · exact absurd rfl he
  · exact .inr (.inr (.inr ⟨rom, hl⟩))

theorem step_pix (hne : t.pix ≠ s.pix) :
    Executes s .clearScreen ∨ ∃ x y n, Executes s (.drawSprite x y n) := by
  rcases step_change State.pix (fun _ _ hs => hs.pix) h hne with
    ⟨i, u, hx, e, he⟩ | ⟨-, -, _, _, _, he⟩ | ⟨-, he⟩ | ⟨_, _, -, he⟩
  · rcases e.pix_eq_or.resolve_left he with rfl | ⟨x, y, n, rfl⟩
    · exact .inl hx
    · exact .inr ⟨x, y, n, hx⟩
  all_goals exact absurd rfl he

theorem step_beep (hne : t.beep ≠ s.beep) :
    (∃ x, Executes s (.setSoundTimer x)) ∨ s.agenda.head? = some .tick := by
  rcases step_change State.beep (fun _ _ hs => hs.beep) h hne with
    ⟨i, u, hx, e, he⟩ | ⟨ht, -⟩ | ⟨-, he⟩ | ⟨_, _, -, he⟩
  · obtain ⟨x, rfl⟩ := e.beep_eq_or.resolve_left he
    exact .inl ⟨x, hx⟩
  · exact .inr ht
  all_goals exact absurd rfl he

end

/-! ### What writes `HALT_CAUSE` -/

theorem State.poll_haltCause (s : State) : s.poll.haltCause = s.haltCause := by
  rcases s.pollWith_cases (Config.waitForKey s.queries) with ⟨-, e⟩ | ⟨-, e⟩ <;>
    (rw [State.poll, e]; rfl)

theorem State.tick_haltCause (s : State) : s.tick.haltCause = s.haltCause := by
  cases hr : s.run with
  | false => rw [State.tick_stopped hr]
  | true =>
    obtain ⟨_, _, -, -, ⟨-, e⟩ | ⟨-, e⟩⟩ := State.tick_cases hr <;> simp [e]

theorem State.loadRom_haltCause (s : State) (rom : List Byte) :
    (s.loadRom rom).haltCause = s.haltCause := by
  rcases s.loadRom_cases rom with ⟨-, e⟩ | ⟨-, e⟩ <;> simp [e]

/-- No host command but Reset writes `HALT_CAUSE`. -/
theorem hostCommand_haltCause {c : HostCommand} {s t : State} (h : hostCommand c s = .settled t)
    (hne : t.haltCause ≠ s.haltCause) : c = .reset ∧ t.haltCause = .none := by
  rcases hostCommand_cases h with ⟨-, rfl⟩ | ⟨-, rfl⟩ | ⟨rfl, rfl⟩ | ⟨rom, -, -, rfl⟩ | ⟨r, rfl⟩
  · exact absurd rfl hne
  · exact absurd rfl hne
  · exact ⟨rfl, rfl⟩
  · exact absurd (s.loadRom_haltCause rom) hne
  · exact absurd rfl hne

end Sys2Proof.Machine

open Sys2Proof Sys2Proof.Machine

/-- Settles O53, by the inversion of a step: a fault of fetch or decode and a fault of an
instruction leave a cause, Reset clears it, and no other step writes it. -/
theorem haltCauseIsSticky : Obligations.HaltCauseIsSticky := by
  intro s t h hne
  rcases step_cases h with ⟨ht, he⟩ | ⟨-, rfl⟩ | ⟨c, hc, hcmd⟩
  · right
    rcases he with ⟨-, rfl⟩ | ⟨-, -, rfl⟩ | ⟨hr, -, -, rfl⟩ | ⟨hr, -, -, rfl⟩ |
      ⟨hr, -, -, i, -, hx⟩
    · exact absurd rfl hne
    · exact absurd (State.poll_haltCause _) hne
    · exact ⟨ht, hr, rfl, nofun⟩
    · exact ⟨ht, hr, rfl, nofun⟩
    · exact ⟨ht, hr, (effect_of_exec hx).haltCause_eq_or.resolve_left hne⟩
  · exact absurd (State.tick_haltCause _) hne
  · obtain ⟨rfl, hnone⟩ := hostCommand_haltCause hcmd hne
    exact .inl ⟨hc, hnone⟩

/-- Settles O58, register by register. -/
theorem whoWritesRegisters : Obligations.WhoWritesRegisters :=
  fun _ _ h => ⟨step_sp h, step_i h, step_dt h, step_st h⟩

/-- Settles O59: memory, the plane and the tone, each by its own lemma. -/
theorem whoWritesMemoryAndPorts : Obligations.WhoWritesMemoryAndPorts :=
  fun _ _ h => ⟨step_mem h, step_pix h, step_beep h⟩

end

section
/-! `ST`, `HALT_CAUSE`, `IR` and `BEEP` are read by no instruction: executing one commutes with
replacing the four, up to the four (10_state.md R28, R30, R31, R35). -/

namespace Sys2Proof.Machine

/-- The pieces of the state no instruction reads. -/
structure Hidden where
  st : Byte
  haltCause : HaltCause
  ir : Word
  beep : Bool

/-- The state with the hidden pieces replaced. -/
def State.withHidden (s : State) (d : Hidden) : State :=
  { s with st := d.st, haltCause := d.haltCause, ir := d.ir, beep := d.beep }

/-- Replacing the hidden pieces changes nothing else. -/
theorem State.withHidden_unchanged (s : State) (d : Hidden) : Unchanged s (s.withHidden d)
    fun p => p = .st ∨ p = .haltCause ∨ p = .ir ∨ p = .beep := by
  intro p hp
  cases p with
  | st | haltCause | ir | beep => simp at hp
  | _ => rfl

/-- The results are next states that differ in the hidden pieces only. -/
def SameVisible (r r' : Result) : Prop := ∃ t d, r = .next t ∧ r' = .next (t.withHidden d)

/-! ### The shared operations commute with replacing the hidden pieces -/

section
variable (s : State) (d : Hidden)

@[simp] theorem State.withHidden_sp : (s.withHidden d).sp = s.sp := rfl
@[simp] theorem State.withHidden_pc : (s.withHidden d).pc = s.pc := rfl
@[simp] theorem State.withHidden_reg (x : Reg) : (s.withHidden d).reg x = s.reg x := rfl
@[simp] theorem State.withHidden_readWord (a : Nat) :
    (s.withHidden d).readWord a = s.readWord a := rfl
@[simp] theorem State.withHidden_keyOperand (x : Reg) :
    (s.withHidden d).keyOperand x = s.keyOperand x := rfl

theorem State.push_withHidden (w : Word) :
    (s.withHidden d).push w = (s.push w).map (·.withHidden d) := by
  by_cases h : inRange (s.sp - 2).toNat 2 = true <;>
    simp only [State.push, State.writeWord, withHidden_sp, h] <;> rfl

theorem State.pop_withHidden :
    (s.withHidden d).pop = s.pop.map fun p => (p.1, p.2.withHidden d) := by
  simp only [State.pop, withHidden_sp, withHidden_readWord]
  cases s.readWord s.sp.toNat <;> rfl

theorem State.loadRegs_withHidden (n : Nat) :
    (s.withHidden d).loadRegs n = (s.loadRegs n).withHidden d := by
  induction n with
  | zero => rfl
  | succ n ih =>
    rw [State.loadRegs, State.loadRegs, ih]
    rfl

theorem drawColumn_withHidden (w h px y : Nat) (b : Byte) (r : State × Bool) (c : Nat) :
    drawColumn w h px y b (Prod.map (·.withHidden d) id r) c =
      Prod.map (·.withHidden d) id (drawColumn w h px y b r c) := by
  unfold drawColumn
  split <;> rfl

theorem drawRow_withHidden (w h px y : Nat) (b : Byte) (r : State × Bool) :
    drawRow w h px y b (Prod.map (·.withHidden d) id r) =
      Prod.map (·.withHidden d) id (drawRow w h px y b r) :=
  List.foldl_hom _ fun r c => drawColumn_withHidden d w h px y b r c

theorem State.drawRows_withHidden (w h px py n : Nat) :
    (s.withHidden d).drawRows w h px py n =
      Prod.map (·.withHidden d) id (s.drawRows w h px py n) := by
  induction n with
  | zero => rfl
  | succ n ih =>
    rw [State.drawRows, State.drawRows, ih, drawRow_withHidden]
    rfl

theorem State.drawSpriteWith_withHidden (w h : Nat) (x y : Reg) (n : RowCount) :
    (s.withHidden d).drawSpriteWith w h x y n = (s.drawSpriteWith w h x y n).withHidden d := by
  simp only [State.drawSpriteWith, withHidden_reg, drawRows_withHidden]
  rfl

/-! ### Instructions -/

/-- A fault overwrites one of the hidden pieces alike in both. -/
theorem SameVisible.fault (c : HaltCause) :
    SameVisible (.next (s.raise c)) (.next ((s.withHidden d).raise c)) :=
  ⟨_, { d with haltCause := c }, rfl, rfl⟩

theorem SameVisible.next (t : State) : SameVisible (.next t) (.next (t.withHidden d)) :=
  ⟨t, d, rfl, rfl⟩

theorem SameVisible.ite {c : Prop} [Decidable c] {a b a' b' : Result} (ha : SameVisible a a')
    (hb : SameVisible b b') : SameVisible (if c then a else b) (if c then a' else b') := by
  split
  · exact ha
  · exact hb

/-- Executing an instruction from states that differ in the hidden pieces only gives states that
differ in them only: a fault writes `HALT_CAUSE`, SetSoundTimer `ST` and `BEEP`, and every other
instruction leaves the four as they are. -/
theorem exec_withHidden (i : Instr) : SameVisible (exec i s) (exec i (s.withHidden d)) := by
  cases i with
  | ret =>
    refine .ite (.fault s d _) ?_
    rw [s.pop_withHidden d]
    cases s.pop with
    | none => exact .fault s d _
    | some p => exact .next d _
  | call =>
    refine .ite (.fault s d _) ?_
    rw [State.withHidden_pc, s.push_withHidden d]
    cases s.push s.pc with
    | none => exact .fault s d _
    | some t => exact .next d _
  | drawSprite x y n =>
    refine .ite ?_ (.fault s d _)
    rw [State.drawSpriteWith_withHidden]
    exact .next d _
  | skipKeyPressed x | skipKeyNotPressed x =>
    simp only [exec, execSkipKeyPressed, execSkipKeyNotPressed, State.withHidden_keyOperand]
    cases s.keyOperand x with
    | none => exact .fault s d _
    | some k => exact .next d _
  | setSoundTimer x =>
    by_cases h : s.reg x = 0 <;>
      simp only [exec, execSetSoundTimer, State.withHidden_reg, h, if_true, if_false]
    · exact .next { d with st := 0 } _
    · exact .next { d with st := s.reg x, beep := true } _
  | storeBCD | storeRegs => exact .ite (.next d _) (.fault s d _)
  | fillRegs x =>
    refine .ite ?_ (.fault s d _)
    rw [State.loadRegs_withHidden]
    exact .next d _
  | _ => exact .next d _

end

end Sys2Proof.Machine

open Sys2Proof Sys2Proof.Machine

/-- Settles O60: executing an instruction commutes with replacing the hidden pieces, up to them. -/
theorem hiddenStateIsNotRead : Obligations.HiddenStateIsNotRead := by
  intro i s t st c ir b h
  obtain ⟨u, d, e, e'⟩ := exec_withHidden s ⟨st, c, ir, b⟩ i
  rw [h] at e
  cases e
  exact ⟨_, e', t.withHidden_unchanged d⟩

end

section
/-! Memory as the next fetch sees it (20_memory.md R54, R59, R64): bytes written one after another,
read at any address, and the instructions that store. -/

namespace Sys2Proof.Machine

/-! ### Several bytes, read at any address -/

/-- What an address reads after a write depends, of the memory before, on that address alone. -/
theorem Memory.byte_write_congr {m m' : Memory} (a : Nat) (b : Byte) {c : Nat}
    (h : m.byte c = m'.byte c) : (m.write a b).byte c = (m'.write a b).byte c := by
  by_cases hca : c = a
  · subst hca
    by_cases hc : c < Config.memSize
    · rw [Memory.byte_write_same m b hc, Memory.byte_write_same m' b hc]
    · simpa only [Memory.write, hc, if_false] using h
  · rw [Memory.byte_write_other m b hca, Memory.byte_write_other m' b hca, h]

theorem Memory.byte_writeBytes_congr (bs : List Byte) {m m' : Memory} (a : Nat) {c : Nat}
    (h : m.byte c = m'.byte c) : (m.writeBytes a bs).byte c = (m'.writeBytes a bs).byte c := by
  induction bs generalizing m m' a with
  | nil => exact h
  | cons b bs ih => exact ih (a + 1) (Memory.byte_write_congr a b h)

/-- The first byte written is read at its address, the others are as written without it. -/
theorem Memory.byte_writeBytes_cons (m : Memory) {a : Nat} (b : Byte) (bs : List Byte) (c : Nat)
    (h : a < 0x1000) :
    (m.writeBytes a (b :: bs)).byte c = if c = a then b else (m.writeBytes (a + 1) bs).byte c := by
  split
  · next e =>
    rw [e, Memory.writeBytes, Memory.byte_writeBytes_outside _ _ _ _ (.inl a.lt_add_one),
      Memory.byte_write_same _ _ h]
  · next e => exact Memory.byte_writeBytes_congr bs (a + 1) (Memory.byte_write_other m b e)

/-- Bytes written within memory, read at any address: the byte written there, or the old one. -/
theorem Memory.byte_writeBytes (m : Memory) {a : Nat} (bs : List Byte) (c : Nat)
    (h : a + bs.length ≤ 0x1000) :
    (m.writeBytes a bs).byte c =
      if hc : a ≤ c ∧ c < a + bs.length then bs[c - a] else m.byte c := by
  split
  · next hc =>
    rw [← Memory.byte_writeBytes_inside bs m a (c - a) (by omega) h, Nat.add_sub_cancel' hc.1]
  · next hc => exact Memory.byte_writeBytes_outside bs m a c (by omega)

theorem highByte_eq (w : Word) : highByte w = BitVec.ofNat 8 (w.toNat / 256) := by
  apply BitVec.eq_of_toNat_eq
  simp [highByte, Nat.shiftRight_eq_div_pow]

theorem lowByte_eq (w : Word) : lowByte w = BitVec.ofNat 8 (w.toNat % 256) := by
  apply BitVec.eq_of_toNat_eq
  simp [lowByte]

/-! ### The fetch -/

/-- A fetch loads `IR` from memory as it stands: where every address reads as `seen` says, the word
is the two bytes `seen` at `PC` (20_memory.md R64). -/
theorem State.fetched_ir_of_byte {s : State} {seen : Nat → Byte}
    (h : ∀ a, s.mem.byte a = seen a) :
    s.fetched.ir = wordOfBytes (seen s.pc.toNat) (seen (s.pc.toNat + 1)) := by
  rw [State.fetched_ir, h, h]

/-- On the engine's turn, a fetch above 0xFFE is AccessFault and nothing else (20_memory.md
R54). -/
theorem step_of_unfetchable {s : State} (hr : s.run = true) (hw : s.waitActive = false)
    (ht : EngineTurn s) (hp : 0xFFE < s.pc.toNat) :
    step s = .next ((s.withAgenda s.agenda.tail).raise .accessFault) := by
  refine step_of_settled ((nextMove_of_engineTurn ht).trans ?_)
  rcases engineMove_cases (s.withAgenda s.agenda.tail) with
    ⟨hr', -⟩ | ⟨-, hw', -⟩ | ⟨-, -, -, he⟩ | ⟨-, -, hp', -⟩
  · cases hr.symm.trans hr'
  · cases hw.symm.trans hw'
  · exact he
  · exact absurd hp (Nat.not_lt.mpr hp')

/-! ### The storing instructions, in range -/

theorem exec_storeRegs (s : State) (x : Reg) (h : s.i.toNat + x.toNat ≤ 0xFFF) :
    exec (.storeRegs x) s =
      .next { s with mem := s.mem.writeBytes s.i.toNat (s.regsUpTo x) } :=
  if_pos ((s.dataInRange_iff (blockLength x)).mpr (.inr (by unfold blockLength; omega)))

theorem exec_storeBCD (s : State) (x : Reg) (h : s.i.toNat + 2 ≤ 0xFFF) :
    exec (.storeBCD x) s =
      .next { s with mem := s.mem.writeBytes s.i.toNat (bcdDigits (s.reg x)) } :=
  if_pos ((s.dataInRange_iff 3).mpr (.inr (by omega)))

/-- `SP - 2` does not wrap above the lower end of the window (10_state.md R27). -/
theorem SpInWindow.toNat_sub_two {s : State} (h : SpInWindow s) :
    (s.sp - 2).toNat = s.sp.toNat - 2 :=
  BitVec.toNat_sub_of_le (y := 2) (BitVec.le_def.mpr (by simp; omega))

/-- Call with room on the stack pushes `PC` and jumps (40_control_flow.md R103). -/
theorem exec_call {s : State} (nnn : Addr) (hs : SpInWindow s) (hne : s.sp ≠ 0xFE0) :
    exec (.call nnn) s = .next { s with
      sp := s.sp - 2, pc := wordOfAddr nnn
      mem := s.mem.writeBytes (s.sp.toNat - 2) [highByte s.pc, lowByte s.pc] } := by
  have hsub := hs.toNat_sub_two
  have hpush := ((s.push_cases s.pc).resolve_right fun h => by omega).2
  rw [hsub] at hpush
  simp only [exec, execCall]
  rw [if_neg (show s.sp ≠ Config.stackLimit from hne), hpush]
  rfl

/-! ### Memory after each, at any address -/

/-- Memory after StoreRegs (42_index_memory.md R144). -/
theorem State.byte_after_storeRegs (s : State) (x : Reg) (a : Nat)
    (h : s.i.toNat + x.toNat ≤ 0xFFF) :
    (s.mem.writeBytes s.i.toNat (s.regsUpTo x)).byte a =
      if s.i.toNat ≤ a ∧ a ≤ s.i.toNat + x.toNat then s.reg (BitVec.ofNat 4 (a - s.i.toNat))
      else s.mem.byte a := by
  have hlen := s.regsUpTo_length x
  rw [Memory.byte_writeBytes _ _ _ (by omega)]
  split
  · next hin => rw [s.regsUpTo_getElem, if_pos (by omega)]
  · next hout => rw [if_neg (by omega)]

/-- Memory after StoreBCD: hundreds, tens and units (42_index_memory.md R143). -/
theorem State.byte_after_storeBCD (s : State) (x : Reg) (a : Nat) (h : s.i.toNat + 2 ≤ 0xFFF) :
    (s.mem.writeBytes s.i.toNat (bcdDigits (s.reg x))).byte a =
      if a = s.i.toNat then BitVec.ofNat 8 ((s.reg x).toNat / 100)
      else if a = s.i.toNat + 1 then BitVec.ofNat 8 ((s.reg x).toNat / 10 % 10)
      else if a = s.i.toNat + 2 then BitVec.ofNat 8 ((s.reg x).toNat % 10)
      else s.mem.byte a := by
  rw [bcdDigits, Memory.byte_writeBytes_cons _ _ _ _ (by omega),
    Memory.byte_writeBytes_cons _ _ _ _ (by omega), Memory.byte_writeBytes_cons _ _ _ _ (by omega),
    Memory.writeBytes]

/-- Memory after Call pushed a word: the high byte at the new `SP`, the low byte after it
(20_memory.md R51; 40_control_flow.md R103). -/
theorem SpInWindow.byte_after_push {s : State} (hs : SpInWindow s) (w : Word) (a : Nat) :
    (s.mem.writeBytes (s.sp.toNat - 2) [highByte w, lowByte w]).byte a =
      if a = s.sp.toNat - 2 then BitVec.ofNat 8 (w.toNat / 256)
      else if a = s.sp.toNat - 1 then BitVec.ofNat 8 (w.toNat % 256)
      else s.mem.byte a := by
  rw [Memory.byte_writeBytes_cons _ _ _ _ (by omega),
    Memory.byte_writeBytes_cons _ _ _ _ (by omega), Memory.writeBytes, highByte_eq, lowByte_eq,
    show s.sp.toNat - 2 + 1 = s.sp.toNat - 1 by omega]

end Sys2Proof.Machine

open Sys2Proof Sys2Proof.Machine

/-- Settles O7: the step raises AccessFault in the state before the fetch. -/
theorem fetchFault : Obligations.FetchFault :=
  fun _ hr hw ht hp => ⟨_, step_of_unfetchable hr hw ht hp, State.raise_halted _ _⟩

/-- Settles O33: each instruction's memory reads, at every address, as `seen` says, and the fetch
loads the two bytes read at `PC`. -/
theorem storeSeenByNextFetch : Obligations.StoreSeenByNextFetch := by
  refine ⟨?storeRegs, ?storeBCD, ?call⟩
  case storeRegs =>
    intro s x h _ seen
    exact ⟨_, exec_storeRegs s x h,
      State.fetched_ir_of_byte (seen := seen) fun a => s.byte_after_storeRegs x a h⟩
  case storeBCD =>
    intro s x h _ seen
    exact ⟨_, exec_storeBCD s x h,
      State.fetched_ir_of_byte (seen := seen) fun a => s.byte_after_storeBCD x a h⟩
  case call =>
    intro s nnn hs hne _ seen
    refine ⟨_, exec_call nnn hs hne, ?_⟩
    rw [← wordOfAddr_toNat nnn]
    exact State.fetched_ir_of_byte (seen := seen) fun a => hs.byte_after_push s.pc a

end

section
/-! The decoder and the encoder invert each other on the words of the opcode table, and the words
outside it are the failing words (30_encoding.md R83 to R87). -/

namespace Sys2Proof

/-! ### A word put together from its fields, some of them known -/

section
variable {w : Word} {op n : BitVec 4} {kk : Byte}

theorem encodeNNN_of_fields (h : fieldOp w = op) : encodeNNN op (fieldNNN w) = w := by
  rw [← h, ← word_eq_encodeNNN]

theorem encodeXKK_of_fields (h : fieldOp w = op) (hk : fieldKK w = kk) :
    encodeXKK op (fieldX w) kk = w := by
  rw [← h, ← hk, ← word_eq_encodeXKK]

theorem encodeXYN_of_fields (h : fieldOp w = op) (hn : fieldN w = n) :
    encodeXYN op (fieldX w) (fieldY w) n = w := by
  rw [← h, ← hn, ← word_eq_encodeXYN]

end

/-! ### Decoding an encoded instruction -/

/-- The decoder reads back each field of the format, and the literal digits select the branch of the
instruction. -/
theorem decodeWord_encode (i : Instr) : decodeWord (encode i) = .ok i := by
  cases i with
  | clearScreen | ret => rfl
  | jump | call | setIRegister | jumpV0 | skipValueEq | skipValueNe | setByValue | addToRegister
  | setRandom | drawSprite | skipRegEq | skipRegNe => simp [encode, decodeWord]
  | setReg | orReg | andReg | xorReg | addReg | subReg | shiftRight | subRegReverse | shiftLeft =>
    simp [encode, decodeWord, decodeFamily8]
  | skipKeyPressed | skipKeyNotPressed => simp [encode, decodeWord, decodeFamilyE]
  | _ => simp [encode, decodeWord, decodeFamilyF]

/-- The two bytes of an instruction decode to it, whatever follows them (30_encoding.md R80). -/
theorem decode_encodeBytes_append (i : Instr) (rest : List Byte) :
    decode (encodeBytes i ++ rest) = (.ok i, rest) := by
  simp [encodeBytes, decode, Machine.wordOfBytes_high_low, decodeWord_encode]

/-! ### What the decoder answers, for every word -/

/-- The failing words, family by family (30_encoding.md R87). -/
def FailingWord (w : Word) : Prop :=
  (fieldOp w = 0x0 ∧ w ≠ 0x00E0 ∧ w ≠ 0x00EE) ∨
  (fieldOp w = 0x5 ∧ fieldN w ≠ 0) ∨
  (fieldOp w = 0x8 ∧ fieldN w ∈ [0x8#4, 0x9#4, 0xA#4, 0xB#4, 0xC#4, 0xD#4, 0xF#4]) ∨
  (fieldOp w = 0x9 ∧ fieldN w ≠ 0) ∨
  (fieldOp w = 0xE ∧ fieldKK w ≠ 0x9E ∧ fieldKK w ≠ 0xA1) ∨
  (fieldOp w = 0xF ∧ fieldKK w ∉
    [0x07#8, 0x0A#8, 0x15#8, 0x18#8, 0x1E#8, 0x29#8, 0x33#8, 0x55#8, 0x65#8])

/-- An answer fits a word: the instruction is encoded as the word, or the word is a failing one. -/
def Decoded.Fits (w : Word) : Decoded → Prop
  | .ok i => encode i = w
  | .reject _ => FailingWord w

section
variable {w : Word}

theorem decodeFamily0_fits (h : fieldOp w = 0x0) : (decodeFamily0 w).Fits w := by
  unfold decodeFamily0
  split
  · next he => exact he.symm
  · next hne =>
    split
    · next he => exact he.symm
    · next hne' => exact .inl ⟨h, hne, hne'⟩

/-- The failing sub-codes of the ALU group are those that are none of its nine sub-codes. -/
theorem failing_subcode_iff : ∀ n : BitVec 4,
    n ∈ [0x8#4, 0x9#4, 0xA#4, 0xB#4, 0xC#4, 0xD#4, 0xF#4] ↔
      n ∉ [0x0#4, 0x1#4, 0x2#4, 0x3#4, 0x4#4, 0x5#4, 0x6#4, 0x7#4, 0xE#4] := by
  decide

theorem decodeFamily8_fits (h : fieldOp w = 0x8) : (decodeFamily8 w).Fits w := by
  unfold decodeFamily8
  split
  case h_10 => exact .inr (.inr (.inl ⟨h, (failing_subcode_iff _).mpr (by simp_all)⟩))
  all_goals exact encodeXYN_of_fields h ‹_›

theorem decodeFamilyE_fits (h : fieldOp w = 0xE) : (decodeFamilyE w).Fits w := by
  unfold decodeFamilyE
  split
  case h_3 hne hne' => exact .inr (.inr (.inr (.inr (.inl ⟨h, hne, hne'⟩))))
  all_goals exact encodeXKK_of_fields h ‹_›

theorem decodeFamilyF_fits (h : fieldOp w = 0xF) : (decodeFamilyF w).Fits w := by
  unfold decodeFamilyF
  split
  case h_10 => exact .inr (.inr (.inr (.inr (.inr ⟨h, by simp_all⟩))))
  all_goals exact encodeXKK_of_fields h ‹_›

end

/-- The fifteen other top nibbles aside, the family is 0xF. -/
theorem top_nibble_F : ∀ op : BitVec 4, op ∉ [0x0#4, 0x1#4, 0x2#4, 0x3#4, 0x4#4, 0x5#4, 0x6#4,
    0x7#4, 0x8#4, 0x9#4, 0xA#4, 0xB#4, 0xC#4, 0xD#4, 0xE#4] → op = 0xF := by
  decide

/-- What the decoder answers fits the word, in each of the sixteen families: case `h_k` is the top
nibble `k - 1`. -/
theorem decodeWord_fits (w : Word) : (decodeWord w).Fits w := by
  unfold decodeWord
  split
  case h_1 h => exact decodeFamily0_fits h
  case h_2 h | h_3 h | h_11 h | h_12 h => exact encodeNNN_of_fields h
  case h_4 h | h_5 h | h_7 h | h_8 h | h_13 h => exact encodeXKK_of_fields h rfl
  case h_6 h =>
    split
    · next hn => exact encodeXYN_of_fields h hn
    · next hn => exact .inr (.inl ⟨h, hn⟩)
  case h_9 h => exact decodeFamily8_fits h
  case h_10 h =>
    split
    · next hn => exact encodeXYN_of_fields h hn
    · next hn => exact .inr (.inr (.inr (.inl ⟨h, hn⟩)))
  case h_14 h => exact encodeXYN_of_fields h rfl
  case h_15 h => exact decodeFamilyE_fits h
  case h_16 => exact decodeFamilyF_fits (top_nibble_F _ (by simp_all))

/-- A word decodes to an instruction exactly when it is the instruction's word (30_encoding.md
R84). -/
theorem decodeWord_eq_ok_iff {w : Word} {i : Instr} : decodeWord w = .ok i ↔ encode i = w := by
  constructor
  · intro h
    have hfits := decodeWord_fits w
    rwa [h] at hfits
  · rintro rfl
    exact decodeWord_encode i

/-- A failing word takes the otherwise-branch of its family (30_encoding.md R85). -/
theorem FailingWord.rejected {w : Word} (hw : FailingWord w) : ∃ r, decodeWord w = .reject r := by
  rcases hw with ⟨h, h0, h1⟩ | ⟨h, hn⟩ | ⟨h, hn⟩ | ⟨h, hn⟩ | ⟨h, h0, h1⟩ | ⟨h, hk⟩ <;>
    simp only [decodeWord, h]
  · exact ⟨.family0, (if_neg h0).trans (if_neg h1)⟩
  · exact ⟨.family5, if_neg hn⟩
  · rw [failing_subcode_iff] at hn
    exact ⟨.family8, by unfold decodeFamily8; split <;> simp_all⟩
  · exact ⟨.family9, if_neg hn⟩
  · exact ⟨.familyE, by unfold decodeFamilyE; split <;> simp_all⟩
  · exact ⟨.familyF, by unfold decodeFamilyF; split <;> simp_all⟩

theorem rejected_iff_failingWord {w : Word} :
    (∃ r, decodeWord w = .reject r) ↔ FailingWord w := by
  refine ⟨fun ⟨r, h⟩ => ?_, FailingWord.rejected⟩
  have hfits := decodeWord_fits w
  rwa [h] at hfits

/-! ### The opcode table -/

/-- The literal digits of a format (30_encoding.md R83). -/
def Format.mask : Format → Word
  | .fixed => 0xFFFF
  | .nnn | .xkk | .xyn => 0xF000
  | .xy => 0xF00F
  | .x => 0xF0FF

/-- The instruction of a mnemonic whose operands are the fields of a word (30_encoding.md R83). -/
def Mnemonic.read (w : Word) : Mnemonic → Instr
  | .clearScreen => .clearScreen
  | .ret => .ret
  | .jump => .jump (fieldNNN w)
  | .call => .call (fieldNNN w)
  | .skipValueEq => .skipValueEq (fieldX w) (fieldKK w)
  | .skipValueNe => .skipValueNe (fieldX w) (fieldKK w)
  | .skipRegEq => .skipRegEq (fieldX w) (fieldY w)
  | .setByValue => .setByValue (fieldX w) (fieldKK w)
  | .addToRegister => .addToRegister (fieldX w) (fieldKK w)
  | .setReg => .setReg (fieldX w) (fieldY w)
  | .orReg => .orReg (fieldX w) (fieldY w)
  | .andReg => .andReg (fieldX w) (fieldY w)
  | .xorReg => .xorReg (fieldX w) (fieldY w)
  | .addReg => .addReg (fieldX w) (fieldY w)
  | .subReg => .subReg (fieldX w) (fieldY w)
  | .shiftRight => .shiftRight (fieldX w) (fieldY w)
  | .subRegReverse => .subRegReverse (fieldX w) (fieldY w)
  | .shiftLeft => .shiftLeft (fieldX w) (fieldY w)
  | .skipRegNe => .skipRegNe (fieldX w) (fieldY w)
  | .setIRegister => .setIRegister (fieldNNN w)
  | .jumpV0 => .jumpV0 (fieldNNN w)
  | .setRandom => .setRandom (fieldX w) (fieldKK w)
  | .drawSprite => .drawSprite (fieldX w) (fieldY w) (fieldN w)
  | .skipKeyPressed => .skipKeyPressed (fieldX w)
  | .skipKeyNotPressed => .skipKeyNotPressed (fieldX w)
  | .storeDelayTimer => .storeDelayTimer (fieldX w)
  | .waitAndStoreKey => .waitAndStoreKey (fieldX w)
  | .setDelayTimer => .setDelayTimer (fieldX w)
  | .setSoundTimer => .setSoundTimer (fieldX w)
  | .addToI => .addToI (fieldX w)
  | .setIToChar => .setIToChar (fieldX w)
  | .storeBCD => .storeBCD (fieldX w)
  | .storeRegs => .storeRegs (fieldX w)
  | .fillRegs => .fillRegs (fieldX w)

/-- The row of a mnemonic: its word with every operand 0, under the mask of its format. -/
def Mnemonic.row (m : Mnemonic) : OpcodeRow := ⟨m, encode (m.read 0), m.format.mask⟩

theorem Mnemonic.row_mem (m : Mnemonic) : m.row ∈ opcodeTable := by
  cases m <;> decide

theorem eq_row_of_mem : ∀ r ∈ opcodeTable, r = r.mnemonic.row := by decide

@[simp] theorem Mnemonic.read_mnemonic (m : Mnemonic) (w : Word) : (m.read w).mnemonic = m := by
  cases m <;> rfl

theorem OpcodeRow.selects_iff {r : OpcodeRow} {w : Word} :
    r.selects w = true ↔ w &&& r.mask = r.bits := beq_iff_eq

section
variable (op n : BitVec 4) (nnn : Addr) (x y : Reg) (kk : Byte)

theorem encodeNNN_and_maskF000 : encodeNNN op nnn &&& 0xF000 = encodeNNN op 0 := by
  rw [and_maskF000, fieldOp_encodeNNN]

theorem encodeXKK_and_maskF000 : encodeXKK op x kk &&& 0xF000 = encodeXKK op 0 0 := by
  rw [and_maskF000, fieldOp_encodeXKK]
  exact BitVec.eq_of_toNat_eq (by simp [encodeNNN_toNat, encodeXKK_toNat])

theorem encodeXYN_and_maskF000 : encodeXYN op x y n &&& 0xF000 = encodeXYN op 0 0 0 := by
  rw [and_maskF000, fieldOp_encodeXYN]
  exact BitVec.eq_of_toNat_eq (by simp [encodeNNN_toNat, encodeXYN_toNat])

theorem encodeXYN_and_maskF00F : encodeXYN op x y n &&& 0xF00F = encodeXYN op 0 0 n := by
  rw [and_maskF00F, fieldOp_encodeXYN, fieldN_encodeXYN]

theorem encodeXKK_and_maskF0FF : encodeXKK op x kk &&& 0xF0FF = encodeXKK op 0 kk := by
  rw [and_maskF0FF, fieldOp_encodeXKK, fieldKK_encodeXKK]

end

/-- Under the mask of its format an encoded instruction has its operands 0. -/
theorem row_selects_encode (i : Instr) : i.mnemonic.row.selects (encode i) = true := by
  rw [OpcodeRow.selects_iff]
  cases i with
  | clearScreen | ret => rfl
  | jump | call | setIRegister | jumpV0 => exact encodeNNN_and_maskF000 _ _
  | skipValueEq | skipValueNe | setByValue | addToRegister | setRandom =>
    exact encodeXKK_and_maskF000 _ _ _
  | drawSprite => exact encodeXYN_and_maskF000 _ _ _ _
  | skipRegEq | skipRegNe | setReg | orReg | andReg | xorReg | addReg | subReg | shiftRight
  | subRegReverse | shiftLeft => exact encodeXYN_and_maskF00F _ _ _ _
  | _ => exact encodeXKK_and_maskF0FF _ _ _

section
variable {w : Word} {op n : BitVec 4} {nnn : Addr} {x y : Reg} {kk : Byte}

theorem encodeNNN_of_maskF000 (h : w &&& 0xF000 = encodeNNN op nnn) :
    encodeNNN op (fieldNNN w) = w :=
  encodeNNN_of_fields (by simpa using fieldOp_of_maskF000 h)

theorem encodeXKK_of_maskF000 (h : w &&& 0xF000 = encodeXKK op x kk) :
    encodeXKK op (fieldX w) (fieldKK w) = w :=
  encodeXKK_of_fields (by simpa using fieldOp_of_maskF000 h) rfl

theorem encodeXYN_of_maskF000 (h : w &&& 0xF000 = encodeXYN op x y n) :
    encodeXYN op (fieldX w) (fieldY w) (fieldN w) = w :=
  encodeXYN_of_fields (by simpa using fieldOp_of_maskF000 h) rfl

theorem encodeXYN_of_maskF00F (h : w &&& 0xF00F = encodeXYN op x y n) :
    encodeXYN op (fieldX w) (fieldY w) n = w := by
  obtain ⟨hop, hn⟩ := fields_of_maskF00F h
  exact encodeXYN_of_fields (by simpa using hop) (by simpa using hn)

theorem encodeXKK_of_maskF0FF (h : w &&& 0xF0FF = encodeXKK op x kk) :
    encodeXKK op (fieldX w) kk = w := by
  obtain ⟨hop, hkk⟩ := fields_of_maskF0FF h
  exact encodeXKK_of_fields (by simpa using hop) (by simpa using hkk)

end

/-- A word that selects the row of a mnemonic is the word of the instruction read from it: the mask
fixes the literal digits, and the other digits are the operands. -/
theorem encode_read_of_selects {m : Mnemonic} {w : Word} (h : m.row.selects w = true) :
    encode (m.read w) = w := by
  rw [OpcodeRow.selects_iff] at h
  cases m with
  | clearScreen | ret => exact h.symm.trans BitVec.and_allOnes
  | jump | call | setIRegister | jumpV0 => exact encodeNNN_of_maskF000 h
  | skipValueEq | skipValueNe | setByValue | addToRegister | setRandom =>
    exact encodeXKK_of_maskF000 h
  | drawSprite => exact encodeXYN_of_maskF000 h
  | skipRegEq | skipRegNe | setReg | orReg | andReg | xorReg | addReg | subReg | shiftRight
  | subRegReverse | shiftLeft => exact encodeXYN_of_maskF00F h
  | _ => exact encodeXKK_of_maskF0FF h

/-- A word with the fixed bits of a row decodes to the row's instruction, with the fields of the
word for operands (30_encoding.md R84). -/
theorem decodeWord_of_row {r : OpcodeRow} (hr : r ∈ opcodeTable) {w : Word}
    (h : w &&& r.mask = r.bits) : decodeWord w = .ok (r.mnemonic.read w) := by
  rw [eq_row_of_mem r hr] at h ⊢
  exact decodeWord_eq_ok_iff.mpr (encode_read_of_selects (OpcodeRow.selects_iff.mpr h))

/-- A word selects a row of the table exactly when it decodes to an instruction of the row's
mnemonic (30_encoding.md R84, R85). -/
theorem selects_iff_decodeWord {r : OpcodeRow} (hr : r ∈ opcodeTable) {w : Word} :
    r.selects w = true ↔ ∃ i, decodeWord w = .ok i ∧ i.mnemonic = r.mnemonic := by
  constructor
  · intro h
    exact ⟨_, decodeWord_of_row hr (OpcodeRow.selects_iff.mp h), r.mnemonic.read_mnemonic w⟩
  · rintro ⟨i, hi, hm⟩
    obtain rfl := decodeWord_eq_ok_iff.mp hi
    rw [eq_row_of_mem r hr, ← hm]
    exact row_selects_encode i

end Sys2Proof

open Sys2Proof

/-- Settles O2, by the fields of each instruction's word. -/
theorem decodeEncode : Obligations.DecodeEncode :=
  fun i _ => ⟨decodeWord_encode i, decode_encodeBytes_append i⟩

/-- Settles O3: what the decoder answers fits the word. -/
theorem encodeDecode : Obligations.EncodeDecode := fun _ _ => decodeWord_eq_ok_iff.mp

/-- Settles O4: selecting a row is decoding to its mnemonic, each mnemonic has its row in the table,
and a row of the table is determined by its mnemonic. -/
theorem tableDecidesDecoding : Obligations.TableDecidesDecoding := by
  refine ⟨rfl, ?decoded, fun w r hr => (selects_iff_decodeWord hr).mp, ?unique⟩
  case decoded =>
    intro w i h
    exact ⟨i.mnemonic.row, i.mnemonic.row_mem,
      (selects_iff_decodeWord i.mnemonic.row_mem).mpr ⟨i, h, rfl⟩, rfl⟩
  case unique =>
    intro w r hr r' hr' h h'
    obtain ⟨i, hi, hm⟩ := (selects_iff_decodeWord hr).mp h
    obtain ⟨j, hj, hm'⟩ := (selects_iff_decodeWord hr').mp h'
    obtain rfl : i = j := Decoded.ok.inj (hi.symm.trans hj)
    rw [eq_row_of_mem r hr, eq_row_of_mem r' hr', ← hm, ← hm']

/-- Settles O5, by the decoder's branches. -/
theorem failingWords : Obligations.FailingWords := fun _ => rejected_iff_failingWord

end

section
/-! Control transfer: what Return, the jumps, Call and the skips do (40_control_flow.md R100 to
R107). -/

namespace Sys2Proof.Machine

/-- A word of two bytes is big-endian (20_memory.md R50). -/
theorem wordOfBytes_toNat (hi lo : Byte) :
    (wordOfBytes hi lo).toNat = 256 * hi.toNat + lo.toNat := by
  simp only [wordOfBytes, BitVec.toNat_cast, BitVec.toNat_append]
  rw [← Nat.shiftLeft_add_eq_or_of_lt lo.isLt, Nat.shiftLeft_eq, Nat.mul_comm]

/-! ### Call and Return -/

/-- Moving the stack pointer and jumping changes nothing else. -/
theorem State.moveStack_unchanged (s : State) (a w : Word) :
    Unchanged s { s with sp := a, pc := w } fun p => p = .pc ∨ p = .sp := by
  intro p hp
  cases p with
  | pc | sp => simp at hp
  | _ => rfl

/-- Inside the window `SP + 2` does not wrap (10_state.md R27). -/
theorem SpInWindow.toNat_add_two {s : State} (h : SpInWindow s) :
    (s.sp + 2).toNat = s.sp.toNat + 2 :=
  BitVec.toNat_add_of_lt (y := 2) (by simp; omega)

/-- Below the top of the window the word at `SP` lies within memory (10_state.md R27). -/
theorem SpInWindow.add_two_le {s : State} (h : SpInWindow s) (hne : s.sp ≠ 0x1000) :
    s.sp.toNat + 2 ≤ 0x1000 := by
  obtain ⟨-, hhi, heven⟩ := h
  have hne' : s.sp.toNat ≠ 0x1000 := fun e => hne (BitVec.eq_of_toNat_eq e)
  omega

/-- Return with an entry on the stack jumps to the word at `SP` (40_control_flow.md R100). -/
theorem exec_ret {s : State} {w : Word} (hne : s.sp ≠ 0x1000)
    (h : s.readWord s.sp.toNat = some w) :
    exec .ret s = .next { s with sp := s.sp + 2, pc := w } := by
  simp only [exec, execRet, State.pop, h]
  exact if_neg hne

/-- Return from the top of the window raises StackFault (40_control_flow.md R100). -/
theorem exec_ret_empty {s : State} (h : s.sp = 0x1000) :
    exec .ret s = .next (s.raise .stackFault) := if_pos h

/-- Call at the bottom of the window raises StackFault (40_control_flow.md R103). -/
theorem exec_call_full {s : State} (nnn : Addr) (h : s.sp = 0xFE0) :
    exec (.call nnn) s = .next (s.raise .stackFault) := if_pos h

/-- Call changes `PC`, `SP` and the two bytes at the new `SP` only (40_control_flow.md R103). -/
theorem SpInWindow.push_unchanged {s : State} (h : SpInWindow s) (hi lo : Byte) (w : Word) :
    Unchanged s { s with
        sp := s.sp - 2, pc := w, mem := s.mem.writeBytes (s.sp.toNat - 2) [hi, lo] }
      fun p => p = .pc ∨ p = .sp ∨
        p = .mem (s.sp - 2).toNat ∨ p = .mem ((s.sp - 2).toNat + 1) := by
  rw [h.toNat_sub_two]
  refine ((s.writeBytes_unchanged _ [hi, lo]).mono ?stored).trans
    ((State.moveStack_unchanged _ _ _).mono ?moved)
  case stored =>
    rintro p ⟨k, hk, rfl⟩
    match k, hk with
    | 0, _ => exact .inr (.inr (.inl rfl))
    | 1, _ => exact .inr (.inr (.inr rfl))
  case moved => exact fun p hp => hp.imp_right .inl

/-! ### Jumps and skips -/

/-- A 12-bit address plus a byte does not wrap at 16 bits (40_control_flow.md R102). -/
theorem wordOfAddr_add_wordOfByte_toNat (nnn : Addr) (b : Byte) :
    (wordOfAddr nnn + wordOfByte b).toNat = nnn.toNat + b.toNat := by
  have hn := nnn.isLt
  have hb := b.isLt
  rw [BitVec.toNat_add_of_lt (by simp only [wordOfAddr_toNat, wordOfByte_toNat]; omega),
    wordOfAddr_toNat, wordOfByte_toNat]

theorem State.skipIf_beq_pc (s : State) (a b : Byte) :
    (s.skipIf (a == b)).pc = if a = b then s.pc + 2 else s.pc := by
  simp only [State.skipIf_pc, beq_iff_eq]

theorem State.skipIf_bne_pc (s : State) (a b : Byte) :
    (s.skipIf (a != b)).pc = if a = b then s.pc else s.pc + 2 := by
  simp only [State.skipIf_pc, bne_iff_ne, ite_not]

end Sys2Proof.Machine

open Sys2Proof Sys2Proof.Machine

/-- Settles O11: the word at `SP` lies within memory unless `SP` is at the top of its window. -/
theorem returnPops : Obligations.Return := by
  refine ⟨?word, ?empty, ?pop⟩
  case word => exact fun w => decodeWord_of_row (r := ⟨.ret, 0x00EE, 0xFFFF⟩) (by decide)
  case empty => exact fun s h => ⟨_, exec_ret_empty h, s.raise_halted _⟩
  case pop =>
    intro s hs hne
    have hle := hs.add_two_le hne
    exact ⟨_, _, _, exec_ret hne (s.readWord_eq hle), s.readByte_eq (by omega),
      s.readByte_eq (by omega), wordOfBytes_toNat _ _, hs.toNat_add_two, s.moveStack_unchanged _ _⟩

/-- Settles O14: the two bytes of `PC` are pushed, high byte first, and no other byte of memory
changes. -/
theorem call : Obligations.Call := by
  refine ⟨?word, ?full, ?push⟩
  case word => exact fun w => decodeWord_of_row (r := ⟨.call, 0x2000, 0xF000⟩) (by decide)
  case full => exact fun s nnn h => ⟨_, exec_call_full nnn h, s.raise_halted _⟩
  case push =>
    intro s nnn hs hne
    refine ⟨_, exec_call nnn hs hne, hs.toNat_sub_two, ?high, ?low, wordOfAddr_toNat nnn,
      hs.push_unchanged _ _ _⟩
    case high =>
      rw [State.readByte_eq _ (by omega), hs.byte_after_push, if_pos rfl]
    case low =>
      rw [State.readByte_eq _ (by omega), hs.byte_after_push, if_neg (by omega), if_pos rfl]

/-- Settles O17: the word Return pops is the word Call pushed, and `SP - 2 + 2` is `SP`. -/
theorem callThenReturn : Obligations.CallThenReturn := by
  intro s nnn hs hne
  have hsub := hs.toNat_sub_two
  have hne' : s.sp - 2 ≠ 0x1000 := fun e => by
    have : (s.sp - 2).toNat = 0x1000 := congrArg BitVec.toNat e
    omega
  have hpop := s.readWord_after_write (a := s.sp.toNat - 2) s.pc (by omega)
  rw [← hsub] at hpop
  have hcall := exec_call nnn hs hne
  rw [← hsub] at hcall
  exact ⟨_, _, hcall, exec_ret hne' hpop, rfl, BitVec.sub_add_cancel _ _⟩

/-- Settles O12: zero extension keeps the value. -/
theorem jump : Obligations.Jump :=
  ⟨fun _ => decodeWord_of_row (r := ⟨.jump, 0x1000, 0xF000⟩) (by decide),
    fun s nnn => ⟨_, rfl, wordOfAddr_toNat nnn, s.jumpTo_unchanged _⟩⟩

/-- Settles O13: the sum does not wrap. -/
theorem jumpV0 : Obligations.JumpV0 :=
  ⟨fun _ => decodeWord_of_row (r := ⟨.jumpV0, 0xB000, 0xF000⟩) (by decide),
    fun s nnn => ⟨_, rfl, wordOfAddr_add_wordOfByte_toNat nnn (s.reg 0), s.jumpTo_unchanged _⟩⟩

/-- Settles O15: both are `State.skipIf`, on `V[x] = kk` and on its negation. -/
theorem skipValue : Obligations.SkipValue :=
  ⟨fun _ => decodeWord_of_row (r := ⟨.skipValueEq, 0x3000, 0xF000⟩) (by decide),
    fun _ => decodeWord_of_row (r := ⟨.skipValueNe, 0x4000, 0xF000⟩) (by decide),
    fun s _ _ => ⟨⟨_, rfl, s.skipIf_beq_pc _ _, s.skipIf_unchanged _⟩,
      ⟨_, rfl, s.skipIf_bne_pc _ _, s.skipIf_unchanged _⟩⟩⟩

/-- Settles O16: both are `State.skipIf`, on `V[x] = V[y]` and on its negation. -/
theorem skipReg : Obligations.SkipReg :=
  ⟨fun _ => decodeWord_of_row (r := ⟨.skipRegEq, 0x5000, 0xF00F⟩) (by decide),
    fun _ => decodeWord_of_row (r := ⟨.skipRegNe, 0x9000, 0xF00F⟩) (by decide),
    fun s _ _ => ⟨⟨_, rfl, s.skipIf_beq_pc _ _, s.skipIf_unchanged _⟩,
      ⟨_, rfl, s.skipIf_bne_pc _ _, s.skipIf_unchanged _⟩⟩⟩

end

section
/-! Register and ALU: what the immediate, logic, arithmetic and shift instructions do
(41_register_alu.md R120 to R130). -/

namespace Sys2Proof.Machine

/-! ### The result and the flag -/

/-- A destination other than `VF` holds the result (41_register_alu.md R132). -/
theorem State.reg_setResultFlag_dest (s : State) {x : Reg} (r : Byte) (f : Bool) (h : x ≠ vf) :
    (s.setResultFlag x r f).reg x = r := by
  rw [s.reg_setResultFlag, if_neg h, if_pos rfl]

/-- `VF` holds the flag, also where it is the destination (10_state.md R23). -/
theorem State.reg_setResultFlag_vf (s : State) (x : Reg) (r : Byte) (f : Bool) :
    (s.setResultFlag x r f).reg vf = flagByte f := by
  rw [s.reg_setResultFlag, if_pos rfl]

theorem flagByte_decide (p : Prop) [Decidable p] : flagByte (decide p) = if p then 1 else 0 := by
  simp only [flagByte, decide_eq_true_eq]

theorem flagByte_toNat (f : Bool) : (flagByte f).toNat = f.toNat := by
  cases f <;> rfl

/-! ### Arithmetic -/

/-- The carry flag (41_register_alu.md R131). -/
theorem flagByte_addCarry (a b : Byte) :
    flagByte (addCarry a b) = if a.toNat + b.toNat > 255 then 1 else 0 := flagByte_decide _

/-- The "no borrow" flag (41_register_alu.md R131). -/
theorem flagByte_noBorrow (a b : Byte) :
    flagByte (noBorrow a b) = if a.toNat ≥ b.toNat then 1 else 0 := flagByte_decide _

/-- A difference of bytes wraps modulo 256. -/
theorem byte_sub_toNat (a b : Byte) : (a - b).toNat = (a.toNat + 256 - b.toNat) % 256 := by
  have hb := b.isLt
  rw [BitVec.toNat_sub]
  omega

/-! ### Shifts -/

theorem State.shiftOperand_of_vx (s : State) {src : ShiftSource} (x y : Reg) (h : src = .vx) :
    s.shiftOperand src x y = s.reg x := by
  subst h; rfl

theorem State.shiftOperand_of_vy (s : State) {src : ShiftSource} (x y : Reg) (h : src = .vy) :
    s.shiftOperand src x y = s.reg y := by
  subst h; rfl

/-- A logical right shift by one position halves (41_register_alu.md R128). -/
theorem byte_shiftRight_one_toNat (a : Byte) : (a >>> 1).toNat = a.toNat / 2 := by
  rw [BitVec.toNat_ushiftRight, Nat.shiftRight_one]

/-- A left shift by one position doubles and drops bit 7 (41_register_alu.md R130). -/
theorem byte_shiftLeft_one_toNat (a : Byte) : (a <<< 1).toNat = 2 * a.toNat % 256 := by
  rw [BitVec.toNat_shiftLeft, Nat.shiftLeft_eq, Nat.pow_one, Nat.mul_comm]

/-- Bit 0 is the remainder modulo 2 (41_register_alu.md R128). -/
theorem flagByte_droppedRight_toNat (a : Byte) :
    (flagByte (droppedRight a)).toNat = a.toNat % 2 := by
  rw [flagByte_toNat, droppedRight, BitVec.getLsbD, Nat.toNat_testBit, Nat.pow_zero, Nat.div_one]

/-- Bit 7 is the quotient by 128 (41_register_alu.md R130). -/
theorem flagByte_droppedLeft_toNat (a : Byte) :
    (flagByte (droppedLeft a)).toNat = a.toNat / 128 := by
  have ha := a.isLt
  rw [flagByte_toNat, droppedLeft, BitVec.getLsbD, Nat.toNat_testBit]
  omega

end Sys2Proof.Machine

open Sys2Proof Sys2Proof.Machine

/-- Settles O18, by the rules of one register write. -/
theorem setByValue : Obligations.SetByValue :=
  ⟨fun _ => decodeWord_of_row (r := ⟨.setByValue, 0x6000, 0xF000⟩) (by decide),
    fun s x kk => ⟨_, rfl, s.reg_setReg_same x kk, s.setReg_unchanged x kk⟩⟩

/-- Settles O19: one register is written, with a sum that wraps. -/
theorem addToRegister : Obligations.AddToRegister := by
  refine ⟨fun _ => decodeWord_of_row (r := ⟨.addToRegister, 0x7000, 0xF000⟩) (by decide),
    fun s x kk => ⟨_, rfl, ?sum, s.setReg_unchanged x _⟩⟩
  case sum => rw [s.reg_setReg_same, BitVec.toNat_add]

/-- Settles O20, by the rules of one register write. -/
theorem setReg : Obligations.SetReg :=
  ⟨fun _ => decodeWord_of_row (r := ⟨.setReg, 0x8000, 0xF00F⟩) (by decide),
    fun s x y => ⟨_, rfl, s.reg_setReg_same x (s.reg y), s.setReg_unchanged x _⟩⟩

/-- Settles O21: each of the three writes one register, with the bitwise operation of the two. -/
theorem bitwiseLogic : Obligations.BitwiseLogic := by
  refine ⟨fun _ => decodeWord_of_row (r := ⟨.orReg, 0x8001, 0xF00F⟩) (by decide),
    fun _ => decodeWord_of_row (r := ⟨.andReg, 0x8002, 0xF00F⟩) (by decide),
    fun _ => decodeWord_of_row (r := ⟨.xorReg, 0x8003, 0xF00F⟩) (by decide),
    fun s x y => ⟨⟨_, rfl, fun k => ?or, s.setReg_unchanged x _⟩,
      ⟨_, rfl, fun k => ?and, s.setReg_unchanged x _⟩,
      ⟨_, rfl, fun k => ?xor, s.setReg_unchanged x _⟩⟩⟩
  case or => rw [s.reg_setReg_same, BitVec.getLsbD_or]
  case and => rw [s.reg_setReg_same, BitVec.getLsbD_and]
  case xor => rw [s.reg_setReg_same, BitVec.getLsbD_xor]

/-- Settles O22: the sum wraps, and the flag, written last, is its carry. -/
theorem addReg : Obligations.AddReg := by
  refine ⟨fun _ => decodeWord_of_row (r := ⟨.addReg, 0x8004, 0xF00F⟩) (by decide),
    fun s x y => ⟨_, rfl, fun hx => ?sum, ?carry, s.setResultFlag_unchanged x _ _⟩⟩
  case sum => rw [s.reg_setResultFlag_dest _ _ hx, BitVec.toNat_add]
  case carry => rw [s.reg_setResultFlag_vf, flagByte_addCarry]

/-- Settles O23: the difference wraps, and the flag, written last, is "no borrow". -/
theorem subReg : Obligations.SubReg := by
  refine ⟨fun _ => decodeWord_of_row (r := ⟨.subReg, 0x8005, 0xF00F⟩) (by decide),
    fun s x y => ⟨_, rfl, fun hx => ?difference, ?noBorrow, s.setResultFlag_unchanged x _ _⟩⟩
  case difference => rw [s.reg_setResultFlag_dest _ _ hx, byte_sub_toNat]
  case noBorrow => rw [s.reg_setResultFlag_vf, flagByte_noBorrow]

/-- Settles O24: as `subReg`, with the operands in the other order. -/
theorem subRegReverse : Obligations.SubRegReverse := by
  refine ⟨fun _ => decodeWord_of_row (r := ⟨.subRegReverse, 0x8007, 0xF00F⟩) (by decide),
    fun s x y => ⟨_, rfl, fun hx => ?difference, ?noBorrow, s.setResultFlag_unchanged x _ _⟩⟩
  case difference => rw [s.reg_setResultFlag_dest _ _ hx, byte_sub_toNat]
  case noBorrow => rw [s.reg_setResultFlag_vf, flagByte_noBorrow]

/-- Settles O25 for the operand under either setting: its half, and the bit the shift drops. -/
theorem shiftRight : Obligations.ShiftRight := by
  refine ⟨fun _ => decodeWord_of_row (r := ⟨.shiftRight, 0x8006, 0xF00F⟩) (by decide),
    fun s x y => ⟨_, s.shiftOperand Config.shiftSource x y, rfl, s.shiftOperand_of_vx x y,
      s.shiftOperand_of_vy x y, fun hx => ?half, ?dropped, s.setResultFlag_unchanged x _ _⟩⟩
  case half => rw [State.shiftRightWith, s.reg_setResultFlag_dest _ _ hx, byte_shiftRight_one_toNat]
  case dropped => rw [State.shiftRightWith, s.reg_setResultFlag_vf, flagByte_droppedRight_toNat]

/-- Settles O26 for the operand under either setting: its double, and the bit the shift drops. -/
theorem shiftLeft : Obligations.ShiftLeft := by
  refine ⟨fun _ => decodeWord_of_row (r := ⟨.shiftLeft, 0x800E, 0xF00F⟩) (by decide),
    fun s x y => ⟨_, s.shiftOperand Config.shiftSource x y, rfl, s.shiftOperand_of_vx x y,
      s.shiftOperand_of_vy x y, fun hx => ?double, ?dropped, s.setResultFlag_unchanged x _ _⟩⟩
  case double => rw [State.shiftLeftWith, s.reg_setResultFlag_dest _ _ hx, byte_shiftLeft_one_toNat]
  case dropped => rw [State.shiftLeftWith, s.reg_setResultFlag_vf, flagByte_droppedLeft_toNat]

end

section
/-! Index register and memory: what the instructions that write `I`, and the three that move bytes
at `I`, do (42_index_memory.md R140 to R147). -/

namespace Sys2Proof.Machine

/-! ### The index register -/

/-- The sum wraps at 16 bits (42_index_memory.md R141). -/
theorem word_add_wordOfByte_toNat (w : Word) (b : Byte) :
    (w + wordOfByte b).toNat = (w.toNat + b.toNat) % 65536 := by
  rw [BitVec.toNat_add, wordOfByte_toNat]

/-- Five times a byte does not wrap (42_index_memory.md R142). -/
theorem glyphAddress_toNat (b : Byte) : (glyphAddress b).toNat = 5 * b.toNat := by
  have hb := b.isLt
  calc (5 * wordOfByte b).toNat = 5 * b.toNat % 65536 := by
        rw [BitVec.toNat_mul, wordOfByte_toNat]; rfl
    _ = 5 * b.toNat := Nat.mod_eq_of_lt (by omega)

/-! ### The range check of the memory instructions (20_memory.md R55) -/

theorem State.dataInRange_three_iff (s : State) :
    s.dataInRange 3 = true ↔ s.i.toNat + 2 ≤ 0xFFF := by
  rw [s.dataInRange_iff]
  omega

theorem State.dataInRange_blockLength_iff (s : State) (x : Reg) :
    s.dataInRange (blockLength x) = true ↔ s.i.toNat + x.toNat ≤ 0xFFF := by
  rw [s.dataInRange_iff, blockLength]
  omega

theorem exec_storeBCD_outOfRange (s : State) (x : Reg) (h : s.i.toNat + 2 > 0xFFF) :
    exec (.storeBCD x) s = .next (s.raise .accessFault) :=
  if_neg (mt s.dataInRange_three_iff.mp (Nat.not_le.mpr h))

theorem exec_storeRegs_outOfRange (s : State) (x : Reg) (h : s.i.toNat + x.toNat > 0xFFF) :
    exec (.storeRegs x) s = .next (s.raise .accessFault) :=
  if_neg (mt (s.dataInRange_blockLength_iff x).mp (Nat.not_le.mpr h))

theorem exec_fillRegs_outOfRange (s : State) (x : Reg) (h : s.i.toNat + x.toNat > 0xFFF) :
    exec (.fillRegs x) s = .next (s.raise .accessFault) :=
  if_neg (mt (s.dataInRange_blockLength_iff x).mp (Nat.not_le.mpr h))

theorem exec_fillRegs (s : State) (x : Reg) (h : s.i.toNat + x.toNat ≤ 0xFFF) :
    exec (.fillRegs x) s = .next (s.loadRegs (blockLength x)) :=
  if_pos ((s.dataInRange_blockLength_iff x).mpr h)

/-! ### What a block copy moves and leaves unchanged -/

/-- StoreRegs changes the bytes at `I`, .., `I + x` only (42_index_memory.md R144). -/
theorem State.storeRegs_unchanged (s : State) (x : Reg) :
    Unchanged s { s with mem := s.mem.writeBytes s.i.toNat (s.regsUpTo x) }
      fun p => ∃ k, k ≤ x.toNat ∧ p = .mem (s.i.toNat + k) := by
  refine (s.writeBytes_unchanged _ _).mono ?_
  rintro p ⟨k, hk, rfl⟩
  rw [s.regsUpTo_length] at hk
  exact ⟨k, Nat.le_of_lt_succ hk, rfl⟩

/-- Each byte StoreRegs wrote holds its register (42_index_memory.md R144). -/
theorem State.byte_after_storeRegs_inside (s : State) {x k : Reg} (hk : k.toNat ≤ x.toNat)
    (h : s.i.toNat + x.toNat ≤ 0xFFF) :
    (s.mem.writeBytes s.i.toNat (s.regsUpTo x)).byte (s.i.toNat + k.toNat) = s.reg k := by
  rw [s.byte_after_storeRegs x _ h, if_pos (by omega), Nat.add_sub_cancel_left,
    BitVec.ofNat_toNat, BitVec.setWidth_eq]

/-- Each register FillRegs loaded holds its byte of memory (42_index_memory.md R145). -/
theorem State.reg_loadRegs_blockLength (s : State) {x k : Reg} (hk : k.toNat ≤ x.toNat) :
    (s.loadRegs (blockLength x)).reg k = s.mem.byte (s.i.toNat + k.toNat) :=
  s.reg_loadRegs (blockLength x) x.isLt k (Nat.lt_succ_of_le hk)

/-- FillRegs changes `V[0]`, .., `V[x]` only (42_index_memory.md R145). -/
theorem State.loadRegs_blockLength_unchanged (s : State) (x : Reg) :
    Unchanged s (s.loadRegs (blockLength x)) fun p => ∃ k : Reg, k.toNat ≤ x.toNat ∧ p = .reg k :=
  (s.loadRegs_unchanged (blockLength x) x.isLt).mono
    fun _ ⟨k, hk, hp⟩ => ⟨k, Nat.le_of_lt_succ hk, hp⟩

end Sys2Proof.Machine

open Sys2Proof Sys2Proof.Machine

/-- Settles O30: the three digits are read back from the three addresses from `I` on. -/
theorem storeBCD : Obligations.StoreBCD := by
  refine ⟨fun _ => decodeWord_of_row (r := ⟨.storeBCD, 0xF033, 0xF0FF⟩) (by decide), ?store,
    fun s x h => ⟨_, exec_storeBCD_outOfRange s x h, s.raise_halted _⟩⟩
  case store =>
    intro s x h
    refine ⟨_, exec_storeBCD s x h, ?hundreds, ?tens, ?units, s.writeBytes_unchanged _ _⟩
    case hundreds =>
      rw [State.readByte_eq _ (by omega), s.byte_after_storeBCD x _ h, if_pos rfl]
    case tens =>
      rw [State.readByte_eq _ (by omega), s.byte_after_storeBCD x _ h, if_neg (by omega),
        if_pos rfl]
    case units =>
      rw [State.readByte_eq _ (by omega), s.byte_after_storeBCD x _ h, if_neg (by omega),
        if_neg (by omega), if_pos rfl]

/-- Settles O31: the bytes from `I` on are the registers, and no other byte is written. -/
theorem storeRegs : Obligations.StoreRegs := by
  refine ⟨fun _ => decodeWord_of_row (r := ⟨.storeRegs, 0xF055, 0xF0FF⟩) (by decide), ?store,
    fun s x h => ⟨_, exec_storeRegs_outOfRange s x h, s.raise_halted _⟩⟩
  case store =>
    intro s x h
    refine ⟨_, exec_storeRegs s x h, fun k hk => ?stored, s.storeRegs_unchanged x⟩
    case stored =>
      rw [State.readByte_eq _ (by omega), s.byte_after_storeRegs_inside hk h]

/-- Settles O32: each register up to `V[x]` holds its byte, and nothing else is written. -/
theorem fillRegs : Obligations.FillRegs := by
  refine ⟨fun _ => decodeWord_of_row (r := ⟨.fillRegs, 0xF065, 0xF0FF⟩) (by decide), ?fill,
    fun s x h => ⟨_, exec_fillRegs_outOfRange s x h, s.raise_halted _⟩⟩
  case fill =>
    intro s x h
    refine ⟨_, exec_fillRegs s x h, fun k hk => ?loaded, s.loadRegs_blockLength_unchanged x⟩
    case loaded =>
      rw [s.readByte_eq (by omega), s.reg_loadRegs_blockLength hk]

/-- Settles O27: zero extension keeps the value. -/
theorem setIRegister : Obligations.SetIRegister :=
  ⟨fun _ => decodeWord_of_row (r := ⟨.setIRegister, 0xA000, 0xF000⟩) (by decide),
    fun s nnn => ⟨_, rfl, wordOfAddr_toNat nnn, s.setIndex_unchanged _⟩⟩

/-- Settles O28, by the rules of one write of `I`. -/
theorem addToI : Obligations.AddToI :=
  ⟨fun _ => decodeWord_of_row (r := ⟨.addToI, 0xF01E, 0xF0FF⟩) (by decide),
    fun s x => ⟨_, rfl, word_add_wordOfByte_toNat s.i (s.reg x), s.setIndex_unchanged _⟩⟩

/-- Settles O29: the product does not wrap. -/
theorem setIToChar : Obligations.SetIToChar :=
  ⟨fun _ => decodeWord_of_row (r := ⟨.setIToChar, 0xF029, 0xF0FF⟩) (by decide),
    fun s x => ⟨_, rfl, glyphAddress_toNat (s.reg x), s.setIndex_unchanged _⟩⟩

end

section
/-! Display and random: a sprite is a list of FlipPixel calls, and what flipping a list of pixels in
turn does to the plane, the record of transactions and `VF` (43_display_random.md R160 to R163). -/

namespace Sys2Proof.Machine

/-! ### A sprite as a list of calls -/

/-- One FlipPixel call at the coordinates `(x, y)`; the flag collects whether a call found its pixel
set (43_display_random.md R161). -/
def flipDot (w h : Nat) (d : State × Bool) (c : Nat × Nat) : State × Bool :=
  ((d.1.flipPixel w h c.1 c.2).1, d.2 || (d.1.flipPixel w h c.1 c.2).2)

/-- FlipPixel calls at the coordinates in turn, with the flag. -/
def State.flipDots (s : State) (w h : Nat) (coords : List (Nat × Nat)) : State × Bool :=
  coords.foldl (flipDot w h) (s, false)

theorem State.flipDots_append_singleton (s : State) (w h : Nat) (cs : List (Nat × Nat))
    (c : Nat × Nat) : s.flipDots w h (cs ++ [c]) = flipDot w h (s.flipDots w h cs) c := by
  simp only [State.flipDots, List.foldl_append, List.foldl_cons, List.foldl_nil]

/-- A row of a sprite is the calls at its set bits, left to right (43_display_random.md R163). -/
theorem drawRow_eq_foldl (w h px y : Nat) (b : Byte) (d : State × Bool) :
    drawRow w h px y b d = (((List.range 8).filter fun c => b.getLsbD (7 - c)).map
      fun c => (px + c, y)).foldl (flipDot w h) d := by
  rw [List.foldl_map, List.foldl_filter]
  rfl

theorem spriteCoords_succ (px py : Nat) (rowAt : Nat → Byte) (n : Nat) :
    spriteCoords px py rowAt (n + 1) = spriteCoords px py rowAt n ++
      ((List.range 8).filter fun c => (rowAt n).getLsbD (7 - c)).map fun c => (px + c, py + n) := by
  simp only [spriteCoords, List.range_succ, List.flatMap_append, List.flatMap_singleton]

/-- The rows of a sprite are the calls at the coordinates of its set bits (43_display_random.md
R161). -/
theorem State.drawRows_eq_flipDots (s : State) (w h px py n : Nat) : s.drawRows w h px py n =
    s.flipDots w h (spriteCoords px py (fun r => s.mem.byte (s.i.toNat + r)) n) := by
  induction n with
  | zero => rfl
  | succ n ih =>
    rw [State.drawRows, ih, drawRow_eq_foldl, spriteCoords_succ]
    exact List.foldl_append.symm

/-! ### Pixels flipped in turn -/

/-- Whether a pixel is set after those of `hits` were flipped: inverted once for each time it is
among them (60_exceptions.md R221). -/
def Plane.litAfter (p : Plane) (hits : List Pixel) (q : Pixel) : Bool :=
  p.lit q ^^ decide (hits.count q % 2 = 1)

/-- Flipping `hits` in turn, a pixel is found set (43_display_random.md R161). -/
def Plane.Collides (p : Plane) (hits : List Pixel) : Prop :=
  ∃ k, ∃ h : k < hits.length, p.litAfter (hits.take k) hits[k] = true

/-- One flip more inverts its pixel and leaves every other alone. -/
theorem Plane.litAfter_append_singleton (p : Plane) (hits : List Pixel) (r q : Pixel) :
    p.litAfter (hits ++ [r]) q = if q = r then !p.litAfter hits r else p.litAfter hits q := by
  simp only [Plane.litAfter, List.count_append, List.count_singleton]
  rcases eq_or_ne q r with rfl | hne
  · have hparity : ((hits.count q + 1) % 2 = 1) = ¬ hits.count q % 2 = 1 := by
      rw [eq_iff_iff]
      omega
    simp only [beq_self_eq_true, if_true, hparity, decide_not, Bool.xor_not]
  · simp [hne, hne.symm]

/-- Where no pixel is flipped twice, each becomes the exclusive or of what it was and whether it was
flipped. -/
theorem Plane.litAfter_of_nodup (p : Plane) {hits : List Pixel} (h : hits.Nodup) (q : Pixel) :
    p.litAfter hits q = (p.lit q ^^ decide (q ∈ hits)) := by
  by_cases hq : q ∈ hits
  · simp [Plane.litAfter, List.count_eq_one_of_mem h hq, hq]
  · simp [Plane.litAfter, List.count_eq_zero_of_not_mem hq, hq]

theorem Plane.not_collides_nil (p : Plane) : ¬ p.Collides [] := fun ⟨_, hk, _⟩ => nomatch hk

/-- The pixel flipped last is found set, or one before it. -/
theorem Plane.collides_append_singleton (p : Plane) (hits : List Pixel) (q : Pixel) :
    p.Collides (hits ++ [q]) ↔ p.Collides hits ∨ p.litAfter hits q = true := by
  constructor
  · rintro ⟨k, hk, hl⟩
    rcases Nat.lt_or_ge k hits.length with hlt | hge
    · rw [List.getElem_append_left hlt, List.take_append_of_le_length hlt.le] at hl
      exact .inl ⟨k, hlt, hl⟩
    · obtain rfl : k = hits.length := by simp at hk; omega
      rw [List.getElem_concat_length rfl, List.take_left] at hl
      exact .inr hl
  · rintro (⟨k, hk, hl⟩ | hl)
    · refine ⟨k, by simp; omega, ?_⟩
      rwa [List.getElem_append_left hk, List.take_append_of_le_length hk.le]
    · refine ⟨hits.length, by simp, ?_⟩
      rwa [List.getElem_concat_length rfl, List.take_left]

/-- Where no pixel is flipped twice, one is found set where one of them was set before. -/
theorem Plane.collides_of_nodup (p : Plane) {hits : List Pixel} (h : hits.Nodup) :
    p.Collides hits ↔ ∃ q, q ∈ hits ∧ p.lit q = true := by
  induction hits using List.reverseRecOn with
  | nil => simp [p.not_collides_nil]
  | append_singleton hits q ih =>
    obtain ⟨hq, hnd⟩ : q ∉ hits ∧ hits.Nodup := List.nodup_cons.mp (List.nodup_append_comm.mp h)
    rw [p.collides_append_singleton, ih hnd, p.litAfter_of_nodup hnd]
    simp only [hq, decide_false, Bool.xor_false, List.mem_append, List.mem_singleton, or_and_right,
      exists_or, exists_eq_left]

/-! ### What the calls leave -/

theorem spritePixels_append_singleton (w h : Nat) (cs : List (Nat × Nat)) (c : Nat × Nat) :
    spritePixels w h (cs ++ [c]) = spritePixels w h cs ++ [(c.2 % h, c.1 % w)] :=
  List.map_append

/-- Each call is recorded, in the order of the coordinates (60_exceptions.md R221). -/
theorem State.flipDots_trace (s : State) (w h : Nat) (coords : List (Nat × Nat)) :
    ∃ calls, (s.flipDots w h coords).1.trace = calls ++ s.trace ∧
      calls.reverse.map PortCall.flipArgs = coords.map some := by
  induction coords using List.reverseRecOn with
  | nil => exact ⟨[], rfl, rfl⟩
  | append_singleton cs c ih =>
    obtain ⟨calls, htrace, hargs⟩ := ih
    refine ⟨.flipPixel c.1 c.2 ((s.flipDots w h cs).1.flipPixel w h c.1 c.2).2 :: calls, ?recorded,
      ?arguments⟩
    case recorded =>
      rw [s.flipDots_append_singleton, List.cons_append, ← htrace]
      rfl
    case arguments =>
      rw [List.reverse_cons, List.map_append, List.map_append, hargs]
      rfl

theorem State.flipDots_lit (s : State) (w h : Nat) (coords : List (Nat × Nat)) (q : Pixel) :
    (s.flipDots w h coords).1.pix.lit q = s.pix.litAfter (spritePixels w h coords) q := by
  induction coords using List.reverseRecOn generalizing q with
  | nil => exact (Bool.xor_false _).symm
  | append_singleton cs c ih =>
    rw [s.flipDots_append_singleton, spritePixels_append_singleton,
      Plane.litAfter_append_singleton, ← ih, ← ih]
    exact Plane.lit_toggle _ _ q

/-- The flag tells whether a call found its pixel set (43_display_random.md R161). -/
theorem State.flipDots_flag (s : State) (w h : Nat) (coords : List (Nat × Nat)) :
    (s.flipDots w h coords).2 = true ↔ s.pix.Collides (spritePixels w h coords) := by
  induction coords using List.reverseRecOn with
  | nil => exact iff_of_false nofun s.pix.not_collides_nil
  | append_singleton cs c ih =>
    rw [s.flipDots_append_singleton, spritePixels_append_singleton,
      Plane.collides_append_singleton, ← ih, ← s.flipDots_lit]
    exact Bool.or_eq_true_iff

/-! ### A plane wide and high enough -/

/-- No two bits of a sprite have the same coordinates. -/
theorem spriteCoords_nodup (px py : Nat) (rowAt : Nat → Byte) (n : Nat) :
    (spriteCoords px py rowAt n).Nodup := by
  refine List.nodup_flatMap.mpr ⟨fun r _ => ?row, List.nodup_range.imp fun {r r'} hne => ?rows⟩
  case row =>
    exact (List.nodup_range.filter _).map fun c c' e => by simpa using e
  case rows =>
    intro q hq hq'
    obtain ⟨c, -, rfl⟩ := List.mem_map.mp hq
    obtain ⟨c', -, e⟩ := List.mem_map.mp hq'
    exact hne (Nat.add_left_cancel (Prod.mk.inj e).2).symm

theorem exists_of_mem_spriteCoords {px py n : Nat} {rowAt : Nat → Byte} {q : Nat × Nat}
    (h : q ∈ spriteCoords px py rowAt n) : ∃ c r, c < 8 ∧ r < n ∧ q = (px + c, py + r) := by
  obtain ⟨r, hr, hq⟩ := List.mem_flatMap.mp h
  obtain ⟨c, hc, rfl⟩ := List.mem_map.mp hq
  exact ⟨c, r, List.mem_range.mp (List.mem_filter.mp hc).1, List.mem_range.mp hr, rfl⟩

/-- Within one size of the plane, offsets that wrap to the same place are the same. -/
theorem eq_of_add_mod_eq {a b m : Nat} (p : Nat) (h : (p + a) % m = (p + b) % m) (ha : a < m)
    (hb : b < m) : a = b :=
  Nat.ModEq.eq_of_lt_of_lt (Nat.ModEq.add_left_cancel' p h) ha hb

/-- On a plane at least 8 wide and as high as the sprite, no two bits fall on one pixel
(43_display_random.md R161, R163). -/
theorem spritePixels_nodup {w h n : Nat} (hw : 8 ≤ w) (hh : n ≤ h) (px py : Nat)
    (rowAt : Nat → Byte) : (spritePixels w h (spriteCoords px py rowAt n)).Nodup := by
  refine (spriteCoords_nodup px py rowAt n).map_on fun q hq q' hq' e => ?_
  obtain ⟨c, r, hc, hr, rfl⟩ := exists_of_mem_spriteCoords hq
  obtain ⟨c', r', hc', hr', rfl⟩ := exists_of_mem_spriteCoords hq'
  obtain ⟨hrow, hcol⟩ := Prod.mk.inj e
  rw [eq_of_add_mod_eq px hcol (by omega) (by omega),
    eq_of_add_mod_eq py hrow (by omega) (by omega)]

/-! ### DrawSprite -/

theorem flagByte_eq_ite {f : Bool} {p : Prop} [Decidable p] (h : f = true ↔ p) :
    flagByte f = if p then 1 else 0 := by
  simp only [flagByte, h]

/-- The unreduced coordinates of the set bits of the sprite at `I` (43_display_random.md R161). -/
abbrev State.spriteDots (s : State) (x y : Reg) (n : RowCount) : List (Nat × Nat) :=
  spriteCoords (s.reg x).toNat (s.reg y).toNat (fun r => s.mem.byte (s.i.toNat + r)) n.toNat

theorem State.drawSpriteWith_eq_flipDots (s : State) (w h : Nat) (x y : Reg) (n : RowCount) :
    s.drawSpriteWith w h x y n =
      (s.flipDots w h (s.spriteDots x y n)).1.setFlag (s.flipDots w h (s.spriteDots x y n)).2 := by
  rw [State.drawSpriteWith, s.drawRows_eq_flipDots]

theorem State.drawSpriteWith_trace (s : State) (w h : Nat) (x y : Reg) (n : RowCount) :
    ∃ calls, (s.drawSpriteWith w h x y n).trace = calls ++ s.trace ∧
      calls.reverse.map PortCall.flipArgs = (s.spriteDots x y n).map some := by
  rw [s.drawSpriteWith_eq_flipDots]
  exact s.flipDots_trace w h _

theorem State.drawSpriteWith_lit (s : State) (w h : Nat) (x y : Reg) (n : RowCount) (q : Pixel) :
    (s.drawSpriteWith w h x y n).pix.lit q =
      s.pix.litAfter (spritePixels w h (s.spriteDots x y n)) q := by
  rw [s.drawSpriteWith_eq_flipDots]
  exact s.flipDots_lit w h _ q

/-- `VF` holds the flag, also where it gave a coordinate (43_display_random.md R161). -/
theorem State.drawSpriteWith_vf (s : State) (w h : Nat) (x y : Reg) (n : RowCount) :
    (s.drawSpriteWith w h x y n).reg vf =
      flagByte (s.flipDots w h (s.spriteDots x y n)).2 := by
  rw [s.drawSpriteWith_eq_flipDots]
  exact State.reg_setReg_same _ _ _

theorem State.withDisplay_unchanged (s : State) (p : Plane) (l : List PortCall) :
    Unchanged s { s with pix := p, trace := l } fun q => q = .pix ∨ q = .trace := by
  intro q hq
  cases q with
  | pix | trace => simp at hq
  | _ => rfl

theorem State.drawSpriteWith_unchanged (s : State) (w h : Nat) (x y : Reg) (n : RowCount) :
    Unchanged s (s.drawSpriteWith w h x y n) fun p => p = .reg vf ∨ p = .pix ∨ p = .trace := by
  obtain ⟨p, l, f, e⟩ := s.drawSpriteWith_eq w h x y n
  rw [e]
  exact ((s.withDisplay_unchanged p l).mono fun _ => .inr).trans
    ((State.setFlag_unchanged _ f).mono fun _ => .inl)

theorem State.dataInRange_rowCount_iff (s : State) (n : RowCount) :
    s.dataInRange n.toNat = true ↔ n = 0 ∨ s.i.toNat + n.toNat - 1 ≤ 0xFFF := by
  have hzero : n = 0 ↔ n.toNat = 0 := BitVec.toNat_inj.symm
  rw [s.dataInRange_iff, hzero]
  omega

theorem exec_drawSprite {s : State} (x y : Reg) {n : RowCount}
    (h : n = 0 ∨ s.i.toNat + n.toNat - 1 ≤ 0xFFF) : exec (.drawSprite x y n) s =
      .next (s.drawSpriteWith Config.displayWidth Config.displayHeight x y n) :=
  if_pos ((s.dataInRange_rowCount_iff n).mpr h)

theorem exec_drawSprite_outOfRange {s : State} (x y : Reg) {n : RowCount} (hn : n ≠ 0)
    (h : s.i.toNat + n.toNat - 1 > 0xFFF) :
    exec (.drawSprite x y n) s = .next (s.raise .accessFault) :=
  if_neg (mt (s.dataInRange_rowCount_iff n).mp (not_or.mpr ⟨hn, Nat.not_le.mpr h⟩))

/-! ### ClearScreen and SetRandom -/

/-- Clearing a cleared plane changes the record of transactions only (43_display_random.md R160). -/
theorem State.displayClear_unchanged_of_clear {s : State} (h : s.pix = []) :
    Unchanged s s.displayClear (· = .trace) := by
  intro p hp
  cases p with
  | trace => exact absurd rfl hp
  | pix => exact h.symm
  | _ => rfl

/-- SetRandom records one draw and writes one register (43_display_random.md R162). -/
theorem State.setRandomWith_unchanged (s : State) (rnd : Byte) (x : Reg) (kk : Byte) :
    Unchanged s (s.setRandomWith rnd x kk) fun p => p = .reg x ∨ p = .queries ∨ p = .trace :=
  ((s.query_unchanged _).mono fun _ => .inr).trans
    ((State.setReg_unchanged _ x _).mono fun _ => .inl)

end Sys2Proof.Machine

open Sys2Proof Sys2Proof.Machine

/-- Settles O35: the sprite is drawn by the FlipPixel calls at its set bits, in turn. -/
theorem drawSprite : Obligations.DrawSprite := by
  refine ⟨fun _ => decodeWord_of_row (r := ⟨.drawSprite, 0xD000, 0xF000⟩) (by decide), ?draw,
    fun s x y n hn h => ⟨_, exec_drawSprite_outOfRange x y hn h, s.raise_halted _⟩⟩
  case draw =>
    intro s x y n h
    refine ⟨_, exec_drawSprite x y h, ⟨s.drawSpriteWith_trace _ _ x y n,
      s.drawSpriteWith_lit _ _ x y n, ?flag⟩, s.drawSpriteWith_unchanged _ _ x y n⟩
    case flag =>
      rw [s.drawSpriteWith_vf]
      exact flagByte_eq_ite (s.flipDots_flag _ _ _)

/-- Settles O36: no two bits of the sprite fall on one pixel, so each pixel is flipped at most
once. -/
theorem spriteIsExclusiveOr : Obligations.SpriteIsExclusiveOr := by
  intro s w h x y n hw _ hh t hits
  have hnd : hits.Nodup := spritePixels_nodup hw hh _ _ _
  refine ⟨fun q => ?pixel, ?flag⟩
  case pixel => exact (s.drawSpriteWith_lit w h x y n q).trans (s.pix.litAfter_of_nodup hnd q)
  case flag =>
    rw [s.drawSpriteWith_vf]
    exact flagByte_eq_ite ((s.flipDots_flag w h _).trans (s.pix.collides_of_nodup hnd))

/-- Settles O34: the plane is cleared, and clearing it again changes nothing on it. -/
theorem clearScreen : Obligations.ClearScreen :=
  ⟨fun _ => decodeWord_of_row (r := ⟨.clearScreen, 0x00E0, 0xFFFF⟩) (by decide),
    fun s => ⟨_, _, rfl, rfl, fun _ => rfl, s.displayClear_trace, s.withDisplay_unchanged _ _,
      State.displayClear_unchanged_of_clear s.displayClear_pix⟩⟩

/-- Settles O37, by the rules of a query and of one register write. -/
theorem setRandom : Obligations.SetRandom := by
  refine ⟨fun _ => decodeWord_of_row (r := ⟨.setRandom, 0xC000, 0xF000⟩) (by decide),
    fun s x kk rnd => ⟨fun k => ?bits, rfl, rfl, s.setRandomWith_unchanged rnd x kk⟩,
    fun _ _ _ => rfl⟩
  case bits => rw [State.setRandomWith, State.reg_setReg_same, BitVec.getLsbD_and]

end

section
/-! Keyboard and timers: the two key skips, the timer registers, the key wait from its fetch step to
the poll that ends it or the host's cancellation (44_keyboard_timers.md R170 to R177). -/

namespace Sys2Proof.Machine

/-! ### Key skips -/

/-- A register value up to 15 names the key of that number (44_keyboard_timers.md R170). -/
theorem State.exists_keyOperand_eq_some {s : State} {x : Reg} (h : (s.reg x).toNat ≤ 15) :
    ∃ key : BitVec 4, key.toNat = (s.reg x).toNat ∧ s.keyOperand x = some key := by
  obtain ⟨-, e⟩ := (s.keyOperand_cases x).resolve_right fun hn => by omega
  refine ⟨_, ?number, e⟩
  case number => rw [BitVec.toNat_setWidth, Nat.mod_eq_of_lt (by omega)]

/-- A register value above 15 names no key (44_keyboard_timers.md R170). -/
theorem State.keyOperand_eq_none {s : State} {x : Reg} (h : (s.reg x).toNat > 15) :
    s.keyOperand x = none :=
  ((s.keyOperand_cases x).resolve_left fun hk => by omega).2

section
variable {s : State} {x : Reg}

theorem exec_skipKeyPressed {key : BitVec 4} (h : s.keyOperand x = some key) :
    exec (.skipKeyPressed x) s =
      .next (s.skipKeyPressedWith key (Config.keyDown s.queries key)) := by
  simp only [exec, execSkipKeyPressed, h]

theorem exec_skipKeyNotPressed {key : BitVec 4} (h : s.keyOperand x = some key) :
    exec (.skipKeyNotPressed x) s =
      .next (s.skipKeyNotPressedWith key (Config.keyDown s.queries key)) := by
  simp only [exec, execSkipKeyNotPressed, h]

theorem exec_skipKeyPressed_noKey (h : s.keyOperand x = none) :
    exec (.skipKeyPressed x) s = .next (s.raise .keyFault) := by
  simp only [exec, execSkipKeyPressed, h]

theorem exec_skipKeyNotPressed_noKey (h : s.keyOperand x = none) :
    exec (.skipKeyNotPressed x) s = .next (s.raise .keyFault) := by
  simp only [exec, execSkipKeyNotPressed, h]

end

/-- A query and a skip change nothing but `PC` and the record of queries. -/
theorem State.query_skipIf_unchanged (s : State) (c : PortCall) (b : Bool) :
    Unchanged s ((s.query c).skipIf b) fun p => p = .pc ∨ p = .queries ∨ p = .trace :=
  ((s.query_unchanged c).mono fun _ => .inr).trans
    ((State.skipIf_unchanged _ b).mono fun _ => .inl)

theorem State.skipIf_not_pc (s : State) (b : Bool) :
    (s.skipIf (!b)).pc = if b = true then s.pc else s.pc + 2 := by
  cases b <;> rfl

/-! ### The timers -/

theorem State.withDelay_unchanged (s : State) (b : Byte) :
    Unchanged s { s with dt := b } (· = .dt) := by
  intro p hp
  cases p with
  | dt => exact absurd rfl hp
  | _ => rfl

theorem State.withSound_unchanged (s : State) (b : Byte) :
    Unchanged s { s with st := b } (· = .st) := by
  intro p hp
  cases p with
  | st => exact absurd rfl hp
  | _ => rfl

theorem State.startBeeping_unchanged (s : State) :
    Unchanged s s.startBeeping fun p => p = .beep ∨ p = .trace := by
  intro p hp
  cases p with
  | beep | trace => simp at hp
  | _ => rfl

/-- A nonzero value starts the Beeper (44_keyboard_timers.md R175). -/
theorem exec_setSoundTimer_of_ne_zero {s : State} {x : Reg} (h : s.reg x ≠ 0) :
    exec (.setSoundTimer x) s = .next ({ s with st := s.reg x }).startBeeping :=
  congrArg Host.Outcome.next (if_neg h)

/-- Zero issues no command (44_keyboard_timers.md R175). -/
theorem exec_setSoundTimer_of_eq_zero {s : State} {x : Reg} (h : s.reg x = 0) :
    exec (.setSoundTimer x) s = .next { s with st := s.reg x } :=
  congrArg Host.Outcome.next (if_pos h)

/-! ### The key wait -/

theorem State.beginWait_unchanged (s : State) (x : Reg) :
    Unchanged s { s with waitReg := x, waitActive := true } fun p =>
      p = .waitReg ∨ p = .waitActive := by
  intro p hp
  cases p with
  | waitReg | waitActive => simp at hp
  | _ => rfl

@[simp] theorem State.endWait_reg (s : State) (r : Reg) : s.endWait.reg r = s.reg r := rfl

theorem State.endWait_unchanged (s : State) : Unchanged s s.endWait (· = .waitActive) := by
  intro p hp
  cases p with
  | waitActive => exact absurd rfl hp
  | _ => rfl

/-- Stop changes nothing but `RUN` and the wait (60_exceptions.md R207). -/
theorem State.hostStop_unchanged (s : State) :
    Unchanged s s.hostStop fun p => p = .run ∨ p = .waitActive := by
  intro p hp
  cases p with
  | run | waitActive => simp at hp
  | _ => rfl

section
variable (s : State) {k : BitVec 5}

/-- Whatever the reply, a poll is one WaitForKey transaction (44_keyboard_timers.md R177). -/
theorem State.pollWith_trace (k : BitVec 5) :
    (s.pollWith k).trace = .waitForKey k :: s.trace := by
  rcases s.pollWith_cases k with ⟨-, e⟩ | ⟨-, e⟩ <;> rw [e] <;> rfl

/-- A poll answered with a key stores it, zero-extended, and ends the wait
(44_keyboard_timers.md R177). -/
theorem State.pollWith_storesKey (h : k.toNat ≤ 15) :
    ((s.pollWith k).reg s.waitReg).toNat = k.toNat ∧ (s.pollWith k).waitActive = false ∧
      Unchanged s (s.pollWith k) fun p =>
        p = .reg s.waitReg ∨ p = .waitActive ∨ p = .queries ∨ p = .trace := by
  obtain ⟨-, e⟩ := (s.pollWith_cases k).resolve_right fun hn => by omega
  rw [e]
  refine ⟨?key, rfl, ?frame⟩
  case key =>
    rw [State.endWait_reg, State.reg_setReg_same, BitVec.toNat_setWidth_of_le (by decide)]
  case frame =>
    exact (((s.query_unchanged _).mono fun _ hp => .inr (.inr hp)).trans
      ((State.setReg_unchanged _ _ _).mono fun _ => .inl)).trans
        ((State.endWait_unchanged _).mono fun _ hp => .inr (.inl hp))

/-- A poll answered "no key yet" leaves the wait pending (44_keyboard_timers.md R177). -/
theorem State.pollWith_noKey_unchanged (h : 15 < k.toNat) :
    Unchanged s (s.pollWith k) fun p => p = .queries ∨ p = .trace := by
  obtain ⟨-, e⟩ := (s.pollWith_cases k).resolve_left fun hk => by omega
  rw [e]
  exact s.query_unchanged _

end

/-- While a wait is pending, the engine's step is one poll (44_keyboard_timers.md R177). -/
theorem step_of_wait {s : State} (hr : s.run = true) (hw : s.waitActive = true)
    (ht : EngineTurn s) : step s = .next (s.withAgenda s.agenda.tail).poll := by
  refine step_of_settled ((nextMove_of_engineTurn ht).trans ?_)
  simp only [State.engineMove, State.withAgenda_run, State.withAgenda_waitActive, hr, hw, if_true]

end Sys2Proof.Machine

open Sys2Proof Sys2Proof.Machine

/-- Settles O38: a register value up to 15 names a key, and any other none. -/
theorem skipKey : Obligations.SkipKey := by
  refine ⟨fun _ => decodeWord_of_row (r := ⟨.skipKeyPressed, 0xE09E, 0xF0FF⟩) (by decide),
    fun _ => decodeWord_of_row (r := ⟨.skipKeyNotPressed, 0xE0A1, 0xF0FF⟩) (by decide),
    fun s _ _ => ⟨rfl, rfl, State.skipIf_pc _ _, s.query_skipIf_unchanged _ _⟩,
    fun s _ _ => ⟨rfl, rfl, State.skipIf_not_pc _ _, s.query_skipIf_unchanged _ _⟩,
    fun s x h => ?pressed, fun s x h => ?notPressed, fun s x h => ?noKey⟩
  case pressed =>
    obtain ⟨key, hkey, hop⟩ := State.exists_keyOperand_eq_some h
    exact ⟨key, hkey, exec_skipKeyPressed hop⟩
  case notPressed =>
    obtain ⟨key, hkey, hop⟩ := State.exists_keyOperand_eq_some h
    exact ⟨key, hkey, exec_skipKeyNotPressed hop⟩
  case noKey =>
    have hop := State.keyOperand_eq_none h
    exact ⟨⟨_, exec_skipKeyPressed_noKey hop, s.raise_halted _⟩,
      ⟨_, exec_skipKeyNotPressed_noKey hop, s.raise_halted _⟩⟩

/-- Settles O39: one register, respectively `DT`, is written. -/
theorem delayTimer : Obligations.DelayTimer :=
  ⟨fun _ => decodeWord_of_row (r := ⟨.storeDelayTimer, 0xF007, 0xF0FF⟩) (by decide),
    fun _ => decodeWord_of_row (r := ⟨.setDelayTimer, 0xF015, 0xF0FF⟩) (by decide),
    fun s x => ⟨⟨_, rfl, s.reg_setReg_same x s.dt, s.setReg_unchanged x _⟩,
      ⟨_, rfl, rfl, s.withDelay_unchanged _⟩⟩⟩

/-- Settles O40, by what a poll does with a key and with none. -/
theorem waitAndStoreKey : Obligations.WaitAndStoreKey :=
  ⟨fun _ => decodeWord_of_row (r := ⟨.waitAndStoreKey, 0xF00A, 0xF0FF⟩) (by decide),
    fun s x => ⟨_, rfl, rfl, rfl, s.beginWait_unchanged x⟩,
    fun s _ => s.pollWith_storesKey, fun s _ => s.pollWith_noKey_unchanged,
    fun s => ⟨s.hostStop_waitActive, s.hostReset_waitActive, s.hostStop_unchanged⟩⟩

/-- Settles O41: the step is a poll in the state whose agenda has lost its first event. -/
theorem pollStep : Obligations.PollStep := by
  intro s hr hw ht
  have hagenda := s.withAgenda_unchanged s.agenda.tail
  refine ⟨_, _, step_of_wait hr hw ht, State.pollWith_trace _ _, fun hk => ?key, fun hk => ?noKey⟩
  case key =>
    obtain ⟨hreg, hwait, hframe⟩ := (s.withAgenda s.agenda.tail).pollWith_storesKey hk
    exact ⟨hreg, hwait, (hagenda.mono fun _ hp => by tauto).trans
      (hframe.mono fun _ hp => by tauto)⟩
  case noKey =>
    have hframe := (s.withAgenda s.agenda.tail).pollWith_noKey_unchanged hk
    exact (hagenda.mono fun _ hp => by tauto).trans (hframe.mono fun _ hp => by tauto)

/-- Settles O42, by whether the value written is zero. -/
theorem setSoundTimer : Obligations.SetSoundTimer := by
  refine ⟨fun _ => decodeWord_of_row (r := ⟨.setSoundTimer, 0xF018, 0xF0FF⟩) (by decide),
    fun s x h => ?sound, fun s x h => ⟨_, exec_setSoundTimer_of_eq_zero h, h,
      s.withSound_unchanged _⟩⟩
  case sound =>
    have hne : s.reg x ≠ 0 := fun e => by simp [e] at h
    exact ⟨_, exec_setSoundTimer_of_ne_zero hne, rfl, rfl, rfl,
      ((s.withSound_unchanged _).mono fun _ => .inl).trans
        ((State.startBeeping_unchanged _).mono fun _ => .inr)⟩

end

section
/-! The engines and the host: what a step does on the turn of each, which steps STOPPED allows, how
a run ends, and what ticks in a row come to (60_exceptions.md R200 to R214, R226 to R230). -/

namespace Sys2Proof.Machine

/-! ### The turn -/

/-- One change after another changes no more than the two together. -/
theorem Unchanged.comp {s t u : State} {c d : StatePart → Prop} (h : Unchanged s t c)
    (k : Unchanged t u d) : Unchanged s u fun p => c p ∨ d p :=
  (h.mono fun _ => .inl).trans (k.mono fun _ => .inr)

/-- On the timer engine's turn the step is one tick (60_exceptions.md R212). -/
theorem step_of_tick {s : State} {rest : List Event} (h : s.agenda = .tick :: rest) :
    step s = .next (s.withAgenda rest).tick :=
  step_of_settled (nextMove_of_event h)

/-- On the host's turn the step is its command (60_exceptions.md R226). -/
theorem step_of_command {s t : State} {c : HostCommand} {rest : List Event}
    (h : s.agenda = .host c :: rest) (hc : hostCommand c (s.withAgenda rest) = .settled t) :
    step s = .next t :=
  step_of_settled ((nextMove_of_event h).trans hc)

/-- While STOPPED an event of an engine is an idle step (60_exceptions.md R213, R229). -/
theorem step_of_stopped {s t : State} (hr : s.run = false)
    (hhost : ∀ c, s.agenda.head? ≠ some (.host c)) (h : step s = .next t) :
    t = s.withAgenda s.agenda.tail := by
  rcases step_cases h with ⟨-, he⟩ | ⟨-, rfl⟩ | ⟨c, hc, -⟩
  · rcases he with ⟨-, rfl⟩ | ⟨hr', -⟩ | ⟨hr', -⟩ | ⟨hr', -⟩ | ⟨hr', -⟩
    · rfl
    all_goals simp [hr] at hr'
  · exact State.tick_stopped hr
  · exact absurd hc (hhost c)

/-! ### Fetch and decode -/

theorem State.readByte_eq_some {s : State} {a : Nat} {b : Byte} (h : s.readByte a = some b) :
    a < 0x1000 ∧ s.mem.byte a = b := by
  unfold State.readByte at h
  split at h
  · next hin =>
    exact ⟨((inRange_iff a 1).mp hin).resolve_left Nat.one_ne_zero, Option.some.inj h⟩
  · cases h

/-- A fetch changes nothing but `IR` and `PC` (30_encoding.md R81). -/
theorem State.fetched_unchanged (s : State) :
    Unchanged s s.fetched fun p => p = .ir ∨ p = .pc := by
  intro p hp
  cases p with
  | ir | pc => simp at hp
  | _ => rfl

/-- The next step fetches the bytes `hi` and `lo`: the engine's turn, RUNNING, no key wait
(60_exceptions.md R205). -/
structure Fetches (s : State) (hi lo : Byte) : Prop where
  run : s.run = true
  wait : s.waitActive = false
  turn : EngineTurn s
  hi : s.readByte s.pc.toNat = some hi
  lo : s.readByte (s.pc.toNat + 1) = some lo

section
variable {s : State} {hi lo : Byte} (h : Fetches s hi lo)
include h

theorem Fetches.pc_le : s.pc.toNat ≤ 0xFFE :=
  Nat.le_of_lt_succ (Nat.lt_of_succ_lt_succ (State.readByte_eq_some h.lo).1)

/-- The fetch loads the two bytes and advances `PC` (30_encoding.md R81). -/
theorem Fetches.fetched_eq : (s.withAgenda s.agenda.tail).fetched =
    { s with agenda := s.agenda.tail, ir := wordOfBytes hi lo, pc := s.pc + 2 } := by
  rw [← (State.readByte_eq_some h.hi).2, ← (State.readByte_eq_some h.lo).2]
  rfl

/-- After the fetch comes DecodeFailure or the instruction, as the word decodes (60_exceptions.md
R205). -/
theorem Fetches.nextMove_cases :
    (∃ r, decodeWord (wordOfBytes hi lo) = .reject r ∧ s.nextMove =
      .settled ((s.withAgenda s.agenda.tail).fetched.raise .decodeFailure)) ∨
    (∃ i, decodeWord (wordOfBytes hi lo) = .ok i ∧ s.nextMove =
      .execute i (s.withAgenda s.agenda.tail).fetched) := by
  rw [nextMove_of_engineTurn h.turn]
  have hir : (s.withAgenda s.agenda.tail).fetched.ir = wordOfBytes hi lo := by rw [h.fetched_eq]
  rcases engineMove_cases (s.withAgenda s.agenda.tail) with
    ⟨hr, -⟩ | ⟨-, hw, -⟩ | ⟨-, -, hp, -⟩ | ⟨-, -, -, he⟩
  · cases h.run.symm.trans hr
  · cases h.wait.symm.trans hw
  · exact absurd h.pc_le (Nat.not_le.mpr hp)
  · rwa [hir] at he

theorem Fetches.step_of_decoded {i : Instr} (hd : decodeWord (wordOfBytes hi lo) = .ok i) :
    step s = exec i (s.withAgenda s.agenda.tail).fetched := by
  rcases h.nextMove_cases with ⟨r, hr, -⟩ | ⟨j, hj, hm⟩
  · cases hd.symm.trans hr
  · cases hd.symm.trans hj
    exact step_of_execute hm

theorem Fetches.step_of_rejected {r : DecodeReject}
    (hd : decodeWord (wordOfBytes hi lo) = .reject r) :
    step s = .next ((s.withAgenda s.agenda.tail).fetched.raise .decodeFailure) := by
  rcases h.nextMove_cases with ⟨_, -, hm⟩ | ⟨i, hi, -⟩
  · exact step_of_settled hm
  · cases hd.symm.trans hi

end

/-! ### What a step can be refused for -/

/-- The host issues LoadRom or inspect while RUNNING (93_implementation_defined.md U1). -/
def HostMisuse (s : State) : Prop :=
  s.run = true ∧ ((∃ rom, s.agenda.head? = some (.host (.loadRom rom))) ∨
    ∃ what, s.agenda.head? = some (.host (.inspect what)))

/-- On an engine's turn a step answers a next state. -/
theorem step_of_engineTurn_answers {s : State} (h : EngineTurn s) : ∃ t, step s = .next t := by
  have hn := nextMove_of_engineTurn h
  rcases engineMove_cases (s.withAgenda s.agenda.tail) with
    ⟨-, he⟩ | ⟨-, -, he⟩ | ⟨-, -, -, he⟩ | ⟨-, -, -, ⟨r, -, he⟩ | ⟨i, -, he⟩⟩
  case inr.inr.inr.inr =>
    obtain ⟨t, ht, -⟩ := exec_effect i (s.withAgenda s.agenda.tail).fetched
    exact ⟨t, (step_of_execute (hn.trans he)).trans ht⟩
  all_goals exact ⟨_, step_of_settled (hn.trans he)⟩

theorem EngineTurn.head?_ne_host {s : State} (h : EngineTurn s) (c : HostCommand) :
    s.agenda.head? ≠ some (.host c) := by
  rcases h with h | h <;> simp [h]

/-- A step answers a next state, or the host misuses the machine and the step is refused. -/
theorem step_answers_or_refused (s : State) :
    ((∃ t, step s = .next t) ∧ ¬ HostMisuse s) ∨
      (step s = .refused .hostWhileRunning ∧ HostMisuse s) := by
  rcases turn_cases s with h | ⟨rest, h⟩ | ⟨c, rest, h⟩
  · refine .inl ⟨step_of_engineTurn_answers h, ?_⟩
    rintro ⟨-, ⟨_, hc⟩ | ⟨_, hc⟩⟩ <;> exact h.head?_ne_host _ hc
  · exact .inl ⟨⟨_, step_of_tick h⟩, by simp [HostMisuse, h]⟩
  · cases c with
    | run | stop | reset | readStatus =>
      exact .inl ⟨⟨_, step_of_command h rfl⟩, by simp [HostMisuse, h]⟩
    | loadRom | inspect =>
      cases hr : s.run with
      | false =>
        have hrun := Bool.eq_false_iff.mp hr
        exact .inl ⟨⟨_, step_of_command h (if_neg hrun)⟩, fun hbad => hrun hbad.1⟩
      | true =>
        exact .inr ⟨step_of_refuse ((nextMove_of_event h).trans (if_pos hr)),
          by simp [HostMisuse, h, hr]⟩

/-! ### What stops a run -/

/-- An instruction clears `RUN` by a fault only, and none sets it (60_exceptions.md R203). -/
theorem Effect.run_eq_or {i : Instr} {s t : State} (e : Effect i s t) :
    t.run = s.run ∨ ∃ c, c ≠ .none ∧ t = s.raise c := by
  cases e with
  | fault c hc => exact .inr ⟨c, hc, rfl⟩
  | _ => exact .inl rfl

theorem State.poll_run (s : State) : s.poll.run = s.run := by
  rcases s.pollWith_cases (Config.waitForKey s.queries) with ⟨-, e⟩ | ⟨-, e⟩ <;>
    (rw [State.poll, e]; rfl)

theorem State.loadRom_run (s : State) (rom : List Byte) : (s.loadRom rom).run = s.run := by
  rcases s.loadRom_cases rom with ⟨-, e⟩ | ⟨-, e⟩ <;> simp [e]

/-- A host command sets `RUN` by Run only. -/
theorem hostCommand_wakes {c : HostCommand} {s t : State} (h : hostCommand c s = .settled t)
    (hs : s.run = false) (ht : t.run = true) : c = .run := by
  rcases hostCommand_cases h with ⟨hc, -⟩ | ⟨-, rfl⟩ | ⟨-, rfl⟩ | ⟨rom, -, -, rfl⟩ | ⟨r, rfl⟩
  · exact hc
  · cases ht
  · cases ht
  · simp [s.loadRom_run, hs] at ht
  · simp [hs] at ht

/-- A host command clears `RUN` by Stop, which leaves `HALT_CAUSE`, and by Reset, which clears it
(60_exceptions.md R207, R208). -/
theorem hostCommand_stops {c : HostCommand} {s t : State} (h : hostCommand c s = .settled t)
    (hs : s.run = true) (ht : t.run = false) :
    (c = .stop ∧ t.haltCause = s.haltCause) ∨ (c = .reset ∧ t.haltCause = .none) := by
  rcases hostCommand_cases h with ⟨-, rfl⟩ | ⟨hc, rfl⟩ | ⟨hc, rfl⟩ | ⟨rom, -, hr, -⟩ | ⟨r, rfl⟩
  · cases ht
  · exact .inl ⟨hc, rfl⟩
  · exact .inr ⟨hc, rfl⟩
  · cases hs.symm.trans hr
  · cases hs.symm.trans ht

/-! ### Ticks -/

/-- A tick changes nothing but the timers, the tone and the record of transactions
(60_exceptions.md R212). -/
theorem State.tick_unchanged (s : State) :
    Unchanged s s.tick fun p => p = .dt ∨ p = .st ∨ p = .beep ∨ p = .trace := by
  cases hr : s.run with
  | false =>
    rw [State.tick_stopped hr]
    exact .refl _ _
  | true =>
    intro p hp
    obtain ⟨d, e, -, -, ⟨-, eq⟩ | ⟨-, eq⟩⟩ := State.tick_cases hr
    all_goals
      rw [eq]
      cases p with
      | dt | st | beep | trace => simp at hp
      | _ => rfl

theorem State.tick_run (s : State) : s.tick.run = s.run := s.tick_unchanged .run (by simp)

theorem State.tick_agenda (s : State) : s.tick.agenda = s.agenda :=
  s.tick_unchanged .agenda (by simp)

section
variable {s : State} (hr : s.run = true)
include hr

theorem State.tick_dt : s.tick.dt.toNat = s.dt.toNat - 1 := by
  obtain ⟨d, e, hd, -, ⟨-, eq⟩ | ⟨-, eq⟩⟩ := State.tick_cases hr <;> simp [eq, hd]

theorem State.tick_st : s.tick.st.toNat = s.st.toNat - 1 := by
  obtain ⟨d, e, -, he, ⟨-, eq⟩ | ⟨-, eq⟩⟩ := State.tick_cases hr <;> simp [eq, he]

/-- The tick that takes `ST` from 1 to 0 stops the Beeper. -/
theorem State.tick_stops_tone (h : s.st.toNat = 1) :
    s.tick.beep = false ∧ s.tick.trace = .stopBeeping :: s.trace := by
  obtain ⟨d, e, -, -, ⟨-, eq⟩ | ⟨hne, -⟩⟩ := State.tick_cases hr
  · rw [eq]
    exact ⟨rfl, rfl⟩
  · exact absurd h hne

/-- No other tick reaches the Beeper. -/
theorem State.tick_keeps_tone (h : s.st.toNat ≠ 1) :
    s.tick.beep = s.beep ∧ s.tick.trace = s.trace := by
  obtain ⟨d, e, -, -, ⟨h1, -⟩ | ⟨-, eq⟩⟩ := State.tick_cases hr
  · exact absurd h1 h
  · rw [eq]
    exact ⟨rfl, rfl⟩

end

theorem State.ticks_unchanged (n : Nat) (s : State) :
    Unchanged s (State.ticks n s) fun p => p = .dt ∨ p = .st ∨ p = .beep ∨ p = .trace := by
  induction n with
  | zero => exact .refl _ _
  | succ n ih => exact ih.trans (State.tick_unchanged _)

theorem State.ticks_run (n : Nat) (s : State) : (State.ticks n s).run = s.run :=
  s.ticks_unchanged n .run (by simp)

section
variable {s : State} (hr : s.run = true)
include hr

theorem State.ticks_dt (n : Nat) : (State.ticks n s).dt.toNat = s.dt.toNat - n := by
  induction n with
  | zero => rfl
  | succ n ih => rw [State.ticks, State.tick_dt ((s.ticks_run n).trans hr), ih, Nat.sub_sub]

theorem State.ticks_st (n : Nat) : (State.ticks n s).st.toNat = s.st.toNat - n := by
  induction n with
  | zero => rfl
  | succ n ih => rw [State.ticks, State.tick_st ((s.ticks_run n).trans hr), ih, Nat.sub_sub]

/-- The tone goes off in the tick in which the sound timer runs out, the `n + 1`-st when `ST` was
`n + 1`. -/
theorem State.ticks_beep (n : Nat) : (State.ticks n s).beep =
    if s.st.toNat ≠ 0 ∧ s.st.toNat ≤ n then false else s.beep := by
  induction n with
  | zero => rw [if_neg (by omega), State.ticks]
  | succ n ih =>
    have hrun := (s.ticks_run n).trans hr
    have hst := State.ticks_st hr n
    by_cases h1 : (State.ticks n s).st.toNat = 1
    · rw [State.ticks, (State.tick_stops_tone hrun h1).1, if_pos (by omega)]
    · rw [State.ticks, (State.tick_keeps_tone hrun h1).1, ih]
      exact if_congr (by omega) rfl rfl

end

/-! ### Runs without host commands -/

section
variable {σ : Schedule} {f : Nat → State} (hf : Follows σ f)
include hf

/-- A step on the timer engine's turn takes one off the delay timer. -/
theorem Follows.dt_of_tick {n : Nat} (hr : (f n).run = true) (ht : σ n = .tick) :
    (f (n + 1)).dt.toNat = (f n).dt.toNat - 1 := by
  have hn := hf n
  rw [ht, step_of_tick (rest := []) rfl] at hn
  rw [← Host.Outcome.next.inj hn]
  exact State.tick_dt (s := ((f n).facing .tick).withAgenda []) hr

/-- Without host commands only SetDelayTimer can raise the delay timer (60_exceptions.md R212). -/
theorem Follows.dt_antitone (hhost : σ.NoHost) (hrun : ∀ n, (f n).run = true)
    (hset : ∀ n x, ¬ Executes ((f n).facing (σ n)) (.setDelayTimer x)) :
    Antitone fun n => (f n).dt.toNat := by
  refine antitone_nat_of_succ_le fun n => ?_
  by_cases he : (f (n + 1)).dt = (f n).dt
  · rw [he]
  · rcases step_dt (hf n) he with ⟨x, hx⟩ | ⟨ht, -⟩ | ht
    · exact absurd hx (hset n x)
    · rw [hf.dt_of_tick (hrun n) (Option.some.inj ht)]
      exact Nat.sub_le _ _
    · exact absurd (Option.some.inj ht) (hhost n _)

end

/-! ### The host's commands -/

/-- While RUNNING Run is no change (60_exceptions.md R206). -/
theorem State.hostRun_running {s : State} (h : s.run = true) : s.hostRun = s := if_pos h

/-- Run changes `RUN` only (60_exceptions.md R206). -/
theorem State.hostRun_unchanged (s : State) : Unchanged s s.hostRun (· = .run) := by
  rw [s.hostRun_eq]
  intro p hp
  cases p with
  | run => exact absurd rfl hp
  | _ => rfl

/-- Inspection does not look at the events to come. -/
theorem State.shows_withAgenda (s : State) (es : List Event) (what : Inspectable) :
    (s.withAgenda es).shows what = s.shows what := by
  cases what <;> rfl

theorem hostCommand_loadRom {s : State} (rom : List Byte) (h : s.run = false) :
    hostCommand (.loadRom rom) s = .settled (s.loadRom rom) :=
  if_neg (Bool.eq_false_iff.mp h)

theorem hostCommand_inspect {s : State} (what : Inspectable) (h : s.run = false) :
    hostCommand (.inspect what) s = .settled (s.answer (.value (s.shows what))) :=
  if_neg (Bool.eq_false_iff.mp h)

/-- A ROM that fits is loaded byte by byte from 0x200 on, and nothing else is written
(60_exceptions.md R209). -/
theorem State.loadRom_of_fits (s : State) {rom : List Byte} (h : rom.length ≤ 3584) :
    s.loadRom rom = ({ s with mem := s.mem.writeBytes 0x200 rom }).answer .loaded :=
  ((s.loadRom_cases rom).resolve_left fun hn => Nat.not_lt.mpr h hn.1).2

/-- Too long a ROM is not loaded (60_exceptions.md R209). -/
theorem State.loadRom_of_tooLong (s : State) {rom : List Byte} (h : rom.length > 3584) :
    s.loadRom rom = s.answer .loadFailure :=
  ((s.loadRom_cases rom).resolve_right fun hn => Nat.not_lt.mpr hn.1 h).2

end Sys2Proof.Machine

open Sys2Proof Sys2Proof.Machine

/-- Settles O9, instruction by instruction: one that can fault raises its own cause in the state it
started in or leaves the machine RUNNING, the others leave it RUNNING. -/
theorem faultsArePrecise : Obligations.FaultsArePrecise := by
  intro i s t hs hr he ht
  have running {u : State} (h : exec i s = .next u) (hu : u.run = s.run) : False := by
    cases he.symm.trans h
    simp [hu, hr] at ht
  have halted {c : HaltCause} (h : exec i s = .next (s.raise c)) : Halted s t c := by
    cases he.symm.trans h
    exact s.raise_halted c
  cases i with
  | ret =>
    by_cases h : s.sp = 0x1000
    · exact .inl ⟨halted (exec_ret_empty h), .inl rfl⟩
    · exact (running (exec_ret h (s.readWord_eq (hs.add_two_le h))) rfl).elim
  | call nnn =>
    by_cases h : s.sp = 0xFE0
    · exact .inl ⟨halted (exec_call_full nnn h), .inr ⟨nnn, rfl⟩⟩
    · exact (running (exec_call nnn hs h) rfl).elim
  | storeBCD x =>
    rcases Nat.lt_or_ge 0xFFF (s.i.toNat + 2) with h | h
    · exact .inr (.inl ⟨halted (exec_storeBCD_outOfRange s x h), .inl ⟨x, rfl⟩⟩)
    · exact (running (exec_storeBCD s x h) rfl).elim
  | storeRegs x =>
    rcases Nat.lt_or_ge 0xFFF (s.i.toNat + x.toNat) with h | h
    · exact .inr (.inl ⟨halted (exec_storeRegs_outOfRange s x h), .inr (.inl ⟨x, rfl⟩)⟩)
    · exact (running (exec_storeRegs s x h) rfl).elim
  | fillRegs x =>
    rcases Nat.lt_or_ge 0xFFF (s.i.toNat + x.toNat) with h | h
    · exact .inr (.inl ⟨halted (exec_fillRegs_outOfRange s x h), .inr (.inr (.inl ⟨x, rfl⟩))⟩)
    · exact (running (exec_fillRegs s x h)
        (s.loadRegs_blockLength_unchanged x .run (by simp))).elim
  | drawSprite x y n =>
    by_cases h : n = 0 ∨ s.i.toNat + n.toNat - 1 ≤ 0xFFF
    · exact (running (exec_drawSprite x y h)
        (s.drawSpriteWith_unchanged _ _ x y n .run (by simp))).elim
    · obtain ⟨hn, hi⟩ := not_or.mp h
      exact .inr (.inl ⟨halted (exec_drawSprite_outOfRange x y hn (Nat.not_le.mp hi)),
        .inr (.inr (.inr ⟨x, y, n, rfl⟩))⟩)
  | skipKeyPressed x =>
    rcases s.keyOperand_cases x with ⟨-, h⟩ | ⟨-, h⟩
    · exact (running (exec_skipKeyPressed h) rfl).elim
    · exact .inr (.inr ⟨halted (exec_skipKeyPressed_noKey h), .inl ⟨x, rfl⟩⟩)
  | skipKeyNotPressed x =>
    rcases s.keyOperand_cases x with ⟨-, h⟩ | ⟨-, h⟩
    · exact (running (exec_skipKeyNotPressed h) rfl).elim
    · exact .inr (.inr ⟨halted (exec_skipKeyNotPressed_noKey h), .inr ⟨x, rfl⟩⟩)
  | setSoundTimer x =>
    by_cases h : s.reg x = 0
    · exact (running (exec_setSoundTimer_of_eq_zero h) rfl).elim
    · exact (running (exec_setSoundTimer_of_ne_zero h) rfl).elim
  | _ => exact (running rfl rfl).elim

/-- Settles O10, by whose turn it is and, on the host's, by its command. -/
theorem onlyHostMisuseIsRefused : Obligations.OnlyHostMisuseIsRefused := by
  intro s
  rcases step_answers_or_refused s with ⟨⟨t, ht⟩, hok⟩ | ⟨hrefused, hbad⟩
  · exact ⟨.inl ⟨t, ht⟩, iff_of_false (by simp [ht]) hok⟩
  · exact ⟨.inr hrefused, iff_of_true hrefused hbad⟩

/-- Settles O44, by induction on the number of ticks. -/
theorem ticksCountDown : Obligations.TicksCountDown := by
  intro n s hr
  have hst : s.st ≠ 0 ↔ s.st.toNat ≠ 0 := BitVec.toNat_ne
  simp only [hst]
  exact ⟨State.ticks_dt hr n, State.ticks_st hr n, State.ticks_beep hr n, s.ticks_unchanged n⟩

/-- Settles O45: at its least value over the run the delay timer is 0, for a tick still to come
takes one off a value no greater. -/
theorem delayExpiresUnderFairness : Obligations.DelayExpiresUnderFairness := by
  intro σ f hfair hhost hf hrun hset
  have hanti := hf.dt_antitone hhost hrun hset
  obtain ⟨n, hleast⟩ : ∃ n, ∀ m, (f n).dt.toNat ≤ (f m).dt.toNat :=
    ⟨_, fun m => Function.argmin_le (fun n => (f n).dt.toNat) m⟩
  obtain ⟨m, hnm, htick⟩ := (hfair n).2
  have hdown := hf.dt_of_tick (hrun m) htick
  have hm : (f m).dt.toNat ≤ (f n).dt.toNat := hanti hnm
  have hnext := hleast (m + 1)
  exact ⟨n, BitVec.eq_of_toNat_eq (show _ = 0 by omega)⟩

/-- Settles O49: a ROM of at most 3584 bytes from 0x200 on ends within memory. -/
theorem hostLoadRom : Obligations.HostLoadRom := by
  intro s rom rest h
  refine ⟨fun hr hlen => ?tooLong, fun hr hlen => ?fits⟩
  case tooLong =>
    refine ⟨_, step_of_command h (hostCommand_loadRom rom hr), ?_⟩
    rw [State.loadRom_of_tooLong _ hlen]
    exact ⟨rfl, ((s.withAgenda_unchanged rest).comp (State.answer_unchanged _ _)).mono
      fun _ => Or.symm⟩
  case fits =>
    refine ⟨_, step_of_command h (hostCommand_loadRom rom hr), ?_⟩
    rw [State.loadRom_of_fits _ hlen]
    refine ⟨rfl, fun k hk => ?loaded, ?frame⟩
    case loaded =>
      rw [State.readByte_eq _ (by omega)]
      exact congrArg some
        (Memory.byte_writeBytes_inside rom s.mem 0x200 k hk (Nat.add_le_add_left hlen 0x200))
    case frame =>
      exact (((s.withAgenda_unchanged rest).comp (State.writeBytes_unchanged _ _ _)).comp
        (State.answer_unchanged _ _)).mono (by tauto)

/-- Settles O51: an engine's step while STOPPED is idle, and of the host's commands only Run sets
`RUN`. -/
theorem onlyRunWakes : Obligations.OnlyRunWakes := by
  intro s t hr h
  refine ⟨fun ht => ?wakes, fun hhost => ?idle⟩
  case idle =>
    rw [step_of_stopped hr hhost h]
    exact s.withAgenda_unchanged _
  case wakes =>
    have idle (hhost : ∀ c, s.agenda.head? ≠ some (.host c)) : False := by
      rw [step_of_stopped hr hhost h] at ht
      cases hr.symm.trans ht
    rcases step_cases h with ⟨hturn, -⟩ | ⟨htick, -⟩ | ⟨c, hc, hcmd⟩
    · exact (idle hturn.head?_ne_host).elim
    · exact (idle (by simp [htick])).elim
    · rw [hc, hostCommand_wakes hcmd hr ht]

/-- Settles O52, by the inversion of a step: polls and ticks keep `RUN`, a fault of fetch, decode
or an instruction leaves its cause. -/
theorem howARunEnds : Obligations.HowARunEnds := by
  intro s t hr h ht
  have kept {u : State} (e : t = u) (hu : u.run = true) : False := by
    rw [e, hu] at ht
    cases ht
  rcases step_cases h with ⟨hturn, he⟩ | ⟨-, e⟩ | ⟨c, hc, hcmd⟩
  · refine .inr (.inr ⟨hturn, ?_⟩)
    rcases he with ⟨-, e⟩ | ⟨-, -, e⟩ | ⟨-, -, -, rfl⟩ | ⟨-, -, -, rfl⟩ | ⟨-, -, -, i, -, hx⟩
    · exact (kept e hr).elim
    · exact (kept e ((State.poll_run _).trans hr)).elim
    · exact nofun
    · exact nofun
    · rcases (effect_of_exec hx).run_eq_or with e | ⟨c, hc, rfl⟩
      · exact (kept rfl (e.trans hr)).elim
      · exact hc
  · exact (kept e ((State.tick_run _).trans hr)).elim
  · rcases hostCommand_stops hcmd hr ht with ⟨rfl, hcause⟩ | ⟨rfl, hcause⟩
    · exact .inl ⟨hc, hcause⟩
    · exact .inr (.inl ⟨hc, hcause⟩)

/-- Settles O6: two bytes decode as their word does. -/
theorem stepRunsDecoded : Obligations.StepRunsDecoded := by
  intro s i hi lo hr hw ht hhi hlo hd _
  have hf : Fetches s hi lo := ⟨hr, hw, ht, hhi, hlo⟩
  rw [hf.step_of_decoded (congrArg Prod.fst hd), hf.fetched_eq]

/-- Settles O8: the fault is raised in the state the fetch left, whose `PC` does not wrap. -/
theorem decodeFailureHalts : Obligations.DecodeFailureHalts := by
  intro s r hi lo hr hw ht hhi hlo hd
  have hf : Fetches s hi lo := ⟨hr, hw, ht, hhi, hlo⟩
  have hpc := hf.pc_le
  refine ⟨_, hf.step_of_rejected hd, rfl, rfl, ?ir, ?pc, ?frame⟩
  case ir => rw [State.raise_ir, hf.fetched_eq]
  case pc => exact BitVec.toNat_add_of_lt (y := 2) (by simp; omega)
  case frame =>
    obtain ⟨-, -, hraise⟩ := State.raise_halted (s.withAgenda s.agenda.tail).fetched .decodeFailure
    exact (((s.withAgenda_unchanged _).comp (State.fetched_unchanged _)).comp hraise).mono
      (by tauto)

/-- Settles O43: the step is `State.tick` of the state whose agenda has lost the event. -/
theorem tick : Obligations.Tick := by
  intro s rest h
  refine ⟨_, step_of_tick h, State.tick_agenda _, fun hr => ?stopped, fun hr => ?running⟩
  case stopped =>
    rw [State.tick_stopped (s := s.withAgenda rest) hr]
    exact s.withAgenda_unchanged rest
  case running =>
    exact ⟨State.tick_dt (s := s.withAgenda rest) hr, State.tick_st (s := s.withAgenda rest) hr,
      State.tick_stops_tone (s := s.withAgenda rest) hr,
      State.tick_keeps_tone (s := s.withAgenda rest) hr,
      ((s.withAgenda_unchanged rest).comp (State.tick_unchanged _)).mono (by tauto)⟩

/-- Settles O46: Run is `State.hostRun`, which sets `RUN` and is the identity while RUNNING. -/
theorem hostRun : Obligations.HostRun := by
  intro s rest h
  have hframe := State.hostRun_unchanged (s.withAgenda rest)
  refine ⟨_, step_of_command h rfl, hframe .agenda nofun, ?set, fun hr => ?noop,
    ((s.withAgenda_unchanged rest).comp hframe).mono fun _ => Or.symm⟩
  case set => rw [State.hostRun_eq]
  case noop =>
    rw [State.hostRun_running (s := s.withAgenda rest) hr]
    exact s.withAgenda_unchanged rest

/-- Settles O47: Stop is `State.hostStop`, and while STOPPED an engine's step is idle. -/
theorem hostStop : Obligations.HostStop := by
  refine ⟨fun s rest h => ?stop, fun s t hr hhost h => ?idle⟩
  case stop =>
    exact ⟨_, step_of_command h rfl, rfl, rfl, rfl, rfl,
      (((s.withAgenda_unchanged rest).comp (State.hostStop_unchanged _)).comp
        (State.answer_unchanged _ _)).mono (by tauto)⟩
  case idle =>
    rw [step_of_stopped hr hhost h]
    exact s.withAgenda_unchanged _

/-- Settles O50, piece by piece of the state. -/
theorem hostReads : Obligations.HostReads := by
  have answered {s : State} {rest : List Event} (r : HostReply) :
      Unchanged s ((s.withAgenda rest).answer r) fun p => p = .hostReply ∨ p = .agenda :=
    ((s.withAgenda_unchanged rest).comp (State.answer_unchanged _ r)).mono fun _ => Or.symm
  refine ⟨fun s rest h => ⟨_, step_of_command h rfl, rfl, answered _⟩,
    fun s what rest h hr => ⟨_, s.shows what, step_of_command h (hostCommand_inspect what hr),
      congrArg (some ∘ HostReply.value) (s.shows_withAgenda rest what), answered _, ?v, ?i, ?pc,
      ?sp, ?dt, ?st, ?run, ?haltCause, ?ir, ?waitActive, ?waitReg, ?mem, ?pix, ?beep⟩⟩
  case v => rintro x rfl; rfl
  case i | pc | sp | dt | st | ir | waitReg => rintro rfl; rfl
  case run => rintro rfl; rw [State.shows, hr]; rfl
  case haltCause =>
    rintro rfl
    refine ⟨?_, ?_, ?_, ?_, ?_⟩ <;> intro e <;> rw [State.shows, e] <;> rfl
  case waitActive | beep => rintro rfl; exact Bool.cond_eq_ite _ _ _
  case mem => rintro a rfl; exact ⟨_, s.readByte_eq a.isLt, rfl⟩
  case pix =>
    rintro row col rfl
    simp [State.shows, Plane.lit, Bool.toNat, Bool.cond_eq_ite]

end

section
/-! Reset and power-on: what the host command Reset sets and keeps, and what memory holds after
power-on (70_reset_and_hazards.md R250 to R252; 10_state.md R34, R38). -/

namespace Sys2Proof.Machine

/-! ### The registers -/

/-- The register file of Reset and of power-on reads 0 everywhere (10_state.md R38). -/
theorem State.reg_eq_zero {s : State} (h : s.v = Vector.replicate 16 0) (x : Reg) :
    s.reg x = 0 := by
  rw [State.reg]
  simp only [h, Vector.getElem_replicate]

/-! ### Memory after power-on -/

theorem State.powerOn_mem (u : PowerOnChoice) : (State.powerOn u).mem =
    (Memory.writeBytes [] 0 u.font).writeBytes Config.fontSize u.ram := rfl

/-- Below 0x050 memory holds the font: the bytes of `ram` are written above it. -/
theorem State.readByte_powerOn_font {u : PowerOnChoice} (hu : u.font.length = 80) {k : Nat}
    (hk : k < u.font.length) : (State.powerOn u).readByte k = some u.font[k] := by
  have hbelow : k < Config.fontSize := Nat.lt_of_lt_of_eq hk hu
  have hfont := Memory.byte_writeBytes_inside u.font [] 0 k hk (by rw [hu]; decide)
  rw [Nat.zero_add] at hfont
  rw [State.readByte_eq _ (by omega), State.powerOn_mem,
    Memory.byte_writeBytes_outside _ _ _ _ (.inl hbelow), hfont]

/-- From 0x050 on memory holds the bytes of `ram`. -/
theorem State.readByte_powerOn_ram {u : PowerOnChoice} (hu : u.ram.length ≤ 4016) {k : Nat}
    (hk : k < u.ram.length) : (State.powerOn u).readByte (0x50 + k) = some u.ram[k] := by
  rw [State.readByte_eq _ (by omega), State.powerOn_mem]
  exact congrArg some
    (Memory.byte_writeBytes_inside u.ram _ 0x50 k hk (Nat.add_le_add_left hu 0x50))

/-- Bytes that the empty memory reads as already are not listed when they are written. -/
theorem Memory.writeBytes_nil_of_fill (bs : List Byte) (a : Nat)
    (h : ∀ k, ∀ hk : k < bs.length, bs[k] = Memory.fill (a + k)) :
    Memory.writeBytes [] a bs = [] := by
  induction bs generalizing a with
  | nil => rfl
  | cons b bs ih =>
    have hb : b = Memory.fill a := h 0 (Nat.zero_lt_succ _)
    have hwrite : Memory.write [] a b = [] := by simp [Memory.write, hb, Memory.erase]
    rw [Memory.writeBytes, hwrite]
    refine ih (a + 1) fun k hk => ?_
    rw [Nat.add_right_comm]
    exact h (k + 1) (Nat.succ_lt_succ hk)

/-- The default font is what an unlisted address reads as (10_state.md R33). -/
theorem Memory.writeBytes_defaultFont : Memory.writeBytes [] 0 Config.font = [] :=
  Memory.writeBytes_nil_of_fill _ _ fun k hk => by
    rw [Memory.fill, Nat.zero_add, List.getD_eq_getElem _ _ hk]

/-- The reset state is power-on with the default choice: its font is written into the empty memory
without a trace. -/
theorem reset_eq_powerOn_default : State.reset = State.powerOn defaultChoice := by
  rw [State.powerOn, State.choose, defaultChoice, Memory.writeBytes_defaultFont, Memory.writeBytes]
  rfl

end Sys2Proof.Machine

open Sys2Proof Sys2Proof.Machine

/-- Settles O54: the font and `ram` are read back from where they were written, the registers are
those of `State.reset`, and the default font adds nothing to the empty memory. -/
theorem powerOn : Obligations.PowerOn := by
  refine ⟨fun u hfont hram => ⟨fun k => State.readByte_powerOn_font hfont,
    fun k => State.readByte_powerOn_ram hram⟩, fun u => ?registers, reset_eq_powerOn_default⟩
  case registers =>
    have hwf : (State.powerOn u).mem.wf :=
      Memory.writeBytes_wf _ _ (Memory.writeBytes_wf _ _ reset_mem_wf)
    exact ⟨State.reg_eq_zero rfl, rfl, rfl, rfl, rfl, rfl, rfl, rfl, rfl, rfl, hwf⟩

/-- Settles O48: Reset is `State.hostReset`, which writes none of the pieces named last. -/
theorem hostReset : Obligations.HostReset := by
  intro s rest h
  refine ⟨_, step_of_command h rfl, rfl, rfl, rfl, rfl, rfl, rfl, State.reg_eq_zero rfl, rfl, rfl,
    rfl, rfl, ?frame⟩
  case frame => rintro p (rfl | rfl | rfl | rfl | rfl | rfl | ⟨a, rfl⟩) <;> rfl

end

section
/-! The canonical form of memory, and the decoder on written-out words (10_state.md section 8;
95_test_vectors.md B1). -/

namespace Sys2Proof.Machine

/-! ### What a canonical memory lists -/

/-- A read finds an entry of the list or the byte of an unlisted address. -/
theorem Memory.mem_or_byte_eq_fill (m : Memory) (a : Nat) :
    (a, m.byte a) ∈ m ∨ m.byte a = Memory.fill a := by
  induction m with
  | nil => exact .inr rfl
  | cons c m ih =>
    rw [Memory.byte]
    split
    · next hc => exact .inl (hc ▸ List.mem_cons_self)
    · exact ih.imp_left (List.mem_cons_of_mem c)

/-- An entry of a list in rising order is what its address reads as: none before it has the same
address. -/
theorem Memory.byte_of_mem {m : Memory} {c : Host.Cell} (hm : m.Pairwise fun d e => d.1 < e.1)
    (hc : c ∈ m) : m.byte c.1 = c.2 := by
  induction m with
  | nil => cases hc
  | cons d m ih =>
    obtain ⟨hd, hm⟩ := List.pairwise_cons.mp hm
    rw [Memory.byte]
    rcases List.mem_cons.mp hc with rfl | hc
    · exact if_pos rfl
    · exact (if_neg (Nat.ne_of_lt (hd c hc))).trans (ih hm hc)

/-- The entries of a canonical memory are determined by its reads: the addresses below 0x1000 that
do not read as an unlisted address, each with its byte. -/
theorem Memory.wf.mem_iff {m : Memory} (h : m.wf) {c : Host.Cell} :
    c ∈ m ↔ c.1 < Config.memSize ∧ m.byte c.1 = c.2 ∧ c.2 ≠ Memory.fill c.1 := by
  obtain ⟨hsorted, hentries⟩ := h
  constructor
  · intro hc
    obtain ⟨hlt, hne⟩ := hentries c hc
    exact ⟨hlt, Memory.byte_of_mem hsorted hc, hne⟩
  · rintro ⟨-, hbyte, hne⟩
    have hread := m.mem_or_byte_eq_fill c.1
    rw [hbyte] at hread
    exact hread.resolve_right hne

/-- Canonical memories with the same entries are equal: the rising order fixes the list. -/
theorem Memory.wf.eq_of_mem_iff {m m' : Memory} (h : m.wf) (h' : m'.wf)
    (hmem : ∀ c, c ∈ m ↔ c ∈ m') : m = m' := by
  have hirrefl : Std.Irrefl fun c d : Host.Cell => c.1 < d.1 := ⟨fun _ => Nat.lt_irrefl _⟩
  have hantisymm : Std.Antisymm fun c d : Host.Cell => c.1 < d.1 :=
    ⟨fun _ _ hcd hdc => absurd hcd (Nat.lt_asymm hdc)⟩
  exact h.1.eq_of_mem_iff h'.1 hmem

end Sys2Proof.Machine

open Sys2Proof Sys2Proof.Machine

/-- Settles O57: the entries of a canonical memory are determined by its reads below 0x1000, and
the list by its entries. -/
theorem memoryIsCanonical : Obligations.MemoryIsCanonical := by
  intro m m' h h' hbytes
  refine h.eq_of_mem_iff h' fun c => ?_
  rw [h.mem_iff, h'.mem_iff]
  refine and_congr_right fun hlt => ?_
  rw [hbytes c.1 hlt]

/-- Settles O1: eight of the words are the words of their instructions, the other two take the
otherwise-branch of their family. -/
theorem decodeSamples : Obligations.DecodeSamples :=
  ⟨decodeWord_encode .clearScreen, decodeWord_encode (.call 0x300),
    decodeWord_encode (.skipValueEq 0xA 0x42), decodeWord_encode (.subRegReverse 1 2),
    decodeWord_encode (.setIRegister 0x2F0), decodeWord_encode (.drawSprite 1 2 5),
    decodeWord_encode (.skipKeyNotPressed 5), decodeWord_encode (.storeRegs 2), rfl, rfl⟩

end
